-- ==== Sys2Proof/Word.lean ====
section
/-! DEFINITION. The word types of the core (R6, R9, R20, R91 of spec/): nothing here computes. -/

namespace Sys2Proof

/-- A 32-bit word: a register value, an address, an instruction word (R6, R9). -/
abbrev Word := BitVec 32

/-- A byte of memory (R34, R50). -/
abbrev Byte := BitVec 8

/-- A RegisterIndex, an integer in 0..31. It is always a 5-bit instruction field, so its type
leaves no invalid value (R23). It indexes the GPRs or the cop0 bank. -/
abbrev RegIndex := BitVec 5

end Sys2Proof
end

