-- ==== Sys2Proof/Machine/Flags.lean ====
section
/-! DEFINITION. The core has no flags or condition codes, and no instruction writes one (R36). Here are the predicates that
stand in their place: signed overflow and the branch conditions. -/

namespace Sys2Proof.Machine

/-- `SOvf(a, b)`: the mathematical sum of the signed values lies outside [-2^31, 2^31 - 1] (R151). -/
def signedOverflow (a b : Word) : Bool :=
  decide (a.toInt + b.toInt < -2147483648) || decide (2147483647 < a.toInt + b.toInt)

/-- `signed(v) < 0` (R241, R243). -/
def isNegative (v : Word) : Bool := decide (v.toInt < 0)

/-- `signed(v) <= 0` (R239). -/
def isNotPositive (v : Word) : Bool := decide (v.toInt ≤ 0)

/-- `signed(v) > 0` (R240). -/
def isPositive (v : Word) : Bool := decide (0 < v.toInt)

/-- `signed(v) >= 0` (R242, R244). -/
def isNotNegative (v : Word) : Bool := decide (0 ≤ v.toInt)

end Sys2Proof.Machine
end

