-- ==== Sys2Proof/Syntax.lean ====
section
/-! DEFINITION. The instructions: one constructor of Instr for each row of spec/opcode_table.json.

Each constructor carries every bit of its word that does not select the instruction, the ignored ones too (R99), so
that an instruction determines its word: a fault record holds that word (R302). An ignored field stands last and its
docstring says so. The operands' types have exactly the fields' widths (R91), so no operand is out of range (R23). -/

namespace Sys2Proof

/-- The 38 names of the Unlisted entries (R95, R96, R98, R100): what a refusal records as its mnemonic (R104). -/
inductive UnlistedName where
  | slti
  | sltiu
  | xori
  | cop1
  | cop2
  | cop3
  | lh
  | lwl
  | lwr
  | swl
  | swr
  | lwc0
  | lwc1
  | lwc2
  | lwc3
  | swc0
  | swc1
  | swc2
  | swc3
  | syscall
  | brk
  | mfhi
  | mthi
  | mflo
  | mtlo
  | mult
  | multu
  | div
  | divu
  | sub
  | subu
  | nor
  | slt
  | sltu
  | cfc0
  | ctc0
  | bc0
  | cop0Operation
  deriving DecidableEq, Repr

/-- The spec's spelling of an Unlisted name (R100, and DC7 of 95_test_vectors.md for the COP0 operation space). -/
def UnlistedName.text : UnlistedName → String
  | .slti => "SLTI"
  | .sltiu => "SLTIU"
  | .xori => "XORI"
  | .cop1 => "COP1"
  | .cop2 => "COP2"
  | .cop3 => "COP3"
  | .lh => "LH"
  | .lwl => "LWL"
  | .lwr => "LWR"
  | .swl => "SWL"
  | .swr => "SWR"
  | .lwc0 => "LWC0"
  | .lwc1 => "LWC1"
  | .lwc2 => "LWC2"
  | .lwc3 => "LWC3"
  | .swc0 => "SWC0"
  | .swc1 => "SWC1"
  | .swc2 => "SWC2"
  | .swc3 => "SWC3"
  | .syscall => "SYSCALL"
  | .brk => "BREAK"
  | .mfhi => "MFHI"
  | .mthi => "MTHI"
  | .mflo => "MFLO"
  | .mtlo => "MTLO"
  | .mult => "MULT"
  | .multu => "MULTU"
  | .div => "DIV"
  | .divu => "DIVU"
  | .sub => "SUB"
  | .subu => "SUBU"
  | .nor => "NOR"
  | .slt => "SLT"
  | .sltu => "SLTU"
  | .cfc0 => "CFC0"
  | .ctc0 => "CTC0"
  | .bc0 => "BC0"
  | .cop0Operation => "COP0 operation"

/-- The instructions. -/
inductive Instr where
  /-- ADD (R153). Ignored: sa. -/
  | add (rd : RegIndex) (rs : RegIndex) (rt : RegIndex) (sa : RegIndex)
  /-- ADDU (R154). Ignored: sa. -/
  | addu (rd : RegIndex) (rs : RegIndex) (rt : RegIndex) (sa : RegIndex)
  /-- ADDI (R155). -/
  | addi (rt : RegIndex) (rs : RegIndex) (imm : BitVec 16)
  /-- ADDIU (R156). -/
  | addiu (rt : RegIndex) (rs : RegIndex) (imm : BitVec 16)
  /-- AND (R170). Ignored: sa. -/
  | and (rd : RegIndex) (rs : RegIndex) (rt : RegIndex) (sa : RegIndex)
  /-- OR (R171). Ignored: sa. -/
  | or (rd : RegIndex) (rs : RegIndex) (rt : RegIndex) (sa : RegIndex)
  /-- XOR (R172). Ignored: sa. -/
  | xor (rd : RegIndex) (rs : RegIndex) (rt : RegIndex) (sa : RegIndex)
  /-- ANDI (R173). -/
  | andi (rt : RegIndex) (rs : RegIndex) (imm : BitVec 16)
  /-- ORI (R174). -/
  | ori (rt : RegIndex) (rs : RegIndex) (imm : BitVec 16)
  /-- SLL (R175). Ignored: rs. -/
  | sll (rd : RegIndex) (rt : RegIndex) (shamt : RegIndex) (rs : RegIndex)
  /-- SRL (R176). Ignored: rs. -/
  | srl (rd : RegIndex) (rt : RegIndex) (shamt : RegIndex) (rs : RegIndex)
  /-- SRA (R177). Ignored: rs. -/
  | sra (rd : RegIndex) (rt : RegIndex) (shamt : RegIndex) (rs : RegIndex)
  /-- SLLV (R178). Ignored: sa. -/
  | sllv (rd : RegIndex) (rt : RegIndex) (rs : RegIndex) (sa : RegIndex)
  /-- SRLV (R179). Ignored: sa. -/
  | srlv (rd : RegIndex) (rt : RegIndex) (rs : RegIndex) (sa : RegIndex)
  /-- SRAV (R180). Ignored: sa. -/
  | srav (rd : RegIndex) (rt : RegIndex) (rs : RegIndex) (sa : RegIndex)
  /-- LUI (R181). Ignored: rs. -/
  | lui (rt : RegIndex) (imm : BitVec 16) (rs : RegIndex)
  /-- LB (R202). -/
  | lb (rt : RegIndex) (rs : RegIndex) (imm : BitVec 16)
  /-- LBU (R203). -/
  | lbu (rt : RegIndex) (rs : RegIndex) (imm : BitVec 16)
  /-- LHU (R204). -/
  | lhu (rt : RegIndex) (rs : RegIndex) (imm : BitVec 16)
  /-- LW (R205). -/
  | lw (rt : RegIndex) (rs : RegIndex) (imm : BitVec 16)
  /-- SB (R208). -/
  | sb (rt : RegIndex) (rs : RegIndex) (imm : BitVec 16)
  /-- SH (R209). -/
  | sh (rt : RegIndex) (rs : RegIndex) (imm : BitVec 16)
  /-- SW (R210). -/
  | sw (rt : RegIndex) (rs : RegIndex) (imm : BitVec 16)
  /-- J (R233). -/
  | j (target : BitVec 26)
  /-- JAL (R234). -/
  | jal (target : BitVec 26)
  /-- JR (R235). Ignored: rt, rd, sa. -/
  | jr (rs : RegIndex) (rt : RegIndex) (rd : RegIndex) (sa : RegIndex)
  /-- JALR (R236). Ignored: rt, sa. -/
  | jalr (rd : RegIndex) (rs : RegIndex) (rt : RegIndex) (sa : RegIndex)
  /-- BEQ (R237). -/
  | beq (rs : RegIndex) (rt : RegIndex) (imm : BitVec 16)
  /-- BNE (R238). -/
  | bne (rs : RegIndex) (rt : RegIndex) (imm : BitVec 16)
  /-- BLEZ (R239). Ignored: rt. -/
  | blez (rs : RegIndex) (imm : BitVec 16) (rt : RegIndex)
  /-- BGTZ (R240). Ignored: rt. -/
  | bgtz (rs : RegIndex) (imm : BitVec 16) (rt : RegIndex)
  /-- BLTZ (R241). -/
  | bltz (rs : RegIndex) (imm : BitVec 16)
  /-- BGEZ (R242). -/
  | bgez (rs : RegIndex) (imm : BitVec 16)
  /-- BLTZAL (R243). -/
  | bltzal (rs : RegIndex) (imm : BitVec 16)
  /-- BGEZAL (R244). -/
  | bgezal (rs : RegIndex) (imm : BitVec 16)
  /-- MFC0 (R270). Ignored: low. -/
  | mfc0 (rt : RegIndex) (rd : RegIndex) (low : BitVec 11)
  /-- MTC0 (R271). Ignored: low. -/
  | mtc0 (rt : RegIndex) (rd : RegIndex) (low : BitVec 11)
  /-- SLTI, Unlisted (R100). -/
  | slti (bits : BitVec 26)
  /-- SLTIU, Unlisted (R100). -/
  | sltiu (bits : BitVec 26)
  /-- XORI, Unlisted (R100). -/
  | xori (bits : BitVec 26)
  /-- COP1, Unlisted (R100). -/
  | cop1 (bits : BitVec 26)
  /-- COP2, Unlisted (R100). -/
  | cop2 (bits : BitVec 26)
  /-- COP3, Unlisted (R100). -/
  | cop3 (bits : BitVec 26)
  /-- LH, Unlisted (R100). -/
  | lh (bits : BitVec 26)
  /-- LWL, Unlisted (R100). -/
  | lwl (bits : BitVec 26)
  /-- LWR, Unlisted (R100). -/
  | lwr (bits : BitVec 26)
  /-- SWL, Unlisted (R100). -/
  | swl (bits : BitVec 26)
  /-- SWR, Unlisted (R100). -/
  | swr (bits : BitVec 26)
  /-- LWC0, Unlisted (R100). -/
  | lwc0 (bits : BitVec 26)
  /-- LWC1, Unlisted (R100). -/
  | lwc1 (bits : BitVec 26)
  /-- LWC2, Unlisted (R100). -/
  | lwc2 (bits : BitVec 26)
  /-- LWC3, Unlisted (R100). -/
  | lwc3 (bits : BitVec 26)
  /-- SWC0, Unlisted (R100). -/
  | swc0 (bits : BitVec 26)
  /-- SWC1, Unlisted (R100). -/
  | swc1 (bits : BitVec 26)
  /-- SWC2, Unlisted (R100). -/
  | swc2 (bits : BitVec 26)
  /-- SWC3, Unlisted (R100). -/
  | swc3 (bits : BitVec 26)
  /-- SYSCALL, Unlisted (R100). -/
  | syscall (bits : BitVec 20)
  /-- BREAK, Unlisted (R100). -/
  | brk (bits : BitVec 20)
  /-- MFHI, Unlisted (R100). -/
  | mfhi (bits : BitVec 20)
  /-- MTHI, Unlisted (R100). -/
  | mthi (bits : BitVec 20)
  /-- MFLO, Unlisted (R100). -/
  | mflo (bits : BitVec 20)
  /-- MTLO, Unlisted (R100). -/
  | mtlo (bits : BitVec 20)
  /-- MULT, Unlisted (R100). -/
  | mult (bits : BitVec 20)
  /-- MULTU, Unlisted (R100). -/
  | multu (bits : BitVec 20)
  /-- DIV, Unlisted (R100). -/
  | div (bits : BitVec 20)
  /-- DIVU, Unlisted (R100). -/
  | divu (bits : BitVec 20)
  /-- SUB, Unlisted (R100). -/
  | sub (bits : BitVec 20)
  /-- SUBU, Unlisted (R100). -/
  | subu (bits : BitVec 20)
  /-- NOR, Unlisted (R100). -/
  | nor (bits : BitVec 20)
  /-- SLT, Unlisted (R100). -/
  | slt (bits : BitVec 20)
  /-- SLTU, Unlisted (R100). -/
  | sltu (bits : BitVec 20)
  /-- CFC0, Unlisted (R100). -/
  | cfc0 (bits : BitVec 21)
  /-- CTC0, Unlisted (R100). -/
  | ctc0 (bits : BitVec 21)
  /-- BC0, Unlisted (R100). -/
  | bc0 (bits : BitVec 21)
  /-- COP0 operation, w[25:21] = 0x10..0x1F, Unlisted (R100). -/
  | cop0Operation (bits : BitVec 25)
  deriving DecidableEq, Repr

end Sys2Proof
end

