-- ==== Sys2Proof/Decode.lean ====
section
/-! DEFINITION. The three-level decoder (R94 to R99, R101) and the encoder, written from the same tables. -/

namespace Sys2Proof

/-- Primary opcode, w[31:26] (R91). -/
def opField (w : Word) : BitVec 6 := w.extractLsb' 26 6

/-- The rs field, w[25:21]; also the control-coprocessor sub-opcode (R91). -/
def rsField (w : Word) : BitVec 5 := w.extractLsb' 21 5

/-- The rt field, w[20:16]; also the branch-condition sub-opcode (R91). -/
def rtField (w : Word) : BitVec 5 := w.extractLsb' 16 5

/-- The rd field, w[15:11] (R91). -/
def rdField (w : Word) : BitVec 5 := w.extractLsb' 11 5

/-- The shift amount, w[10:6] (R91). -/
def shamtField (w : Word) : BitVec 5 := w.extractLsb' 6 5

/-- The secondary opcode, w[5:0] (R91). -/
def functField (w : Word) : BitVec 6 := w.extractLsb' 0 6

/-- The 16-bit immediate, w[15:0] (R91). -/
def immField (w : Word) : BitVec 16 := w.extractLsb' 0 16

/-- The jump target, w[25:0] (R91). -/
def targetField (w : Word) : BitVec 26 := w.extractLsb' 0 26

/-- Bits 10..0 of a cop0 move, which nothing reads (R92). -/
def lowField (w : Word) : BitVec 11 := w.extractLsb' 0 11

/-- Bits 25..6 of a SPECIAL word, all that its key leaves (R99). -/
def specialBits (w : Word) : BitVec 20 := w.extractLsb' 6 20

/-- Bits 20..0 of a COP0 word, all that its key leaves (R99). -/
def cop0Bits (w : Word) : BitVec 21 := w.extractLsb' 0 21

/-- Bits 24..0 of a COP0 operation word (R98). -/
def coBits (w : Word) : BitVec 25 := w.extractLsb' 0 25

/-- Why a word has no instruction: the Empty entry it meets (R95 to R98, R101), or too few bytes. -/
inductive DecodeReject where
  | emptyPrimary (op : BitVec 6)
  | emptySpecial (funct : BitVec 6)
  | emptyRegimm (cond : BitVec 5)
  | emptyCop0 (sub : BitVec 5)
  | truncated (bytes : Nat)
  deriving DecidableEq, Repr

/-- The SPECIAL table, keyed by the low 6 bits (R96). -/
def decodeSpecial (w : Word) : Except DecodeReject Instr :=
  match functField w with
  | 0x00#6 => .ok (.sll (rdField w) (rtField w) (shamtField w) (rsField w))
  | 0x02#6 => .ok (.srl (rdField w) (rtField w) (shamtField w) (rsField w))
  | 0x03#6 => .ok (.sra (rdField w) (rtField w) (shamtField w) (rsField w))
  | 0x04#6 => .ok (.sllv (rdField w) (rtField w) (rsField w) (shamtField w))
  | 0x06#6 => .ok (.srlv (rdField w) (rtField w) (rsField w) (shamtField w))
  | 0x07#6 => .ok (.srav (rdField w) (rtField w) (rsField w) (shamtField w))
  | 0x08#6 => .ok (.jr (rsField w) (rtField w) (rdField w) (shamtField w))
  | 0x09#6 => .ok (.jalr (rdField w) (rsField w) (rtField w) (shamtField w))
  | 0x0C#6 => .ok (.syscall (specialBits w))
  | 0x0D#6 => .ok (.brk (specialBits w))
  | 0x10#6 => .ok (.mfhi (specialBits w))
  | 0x11#6 => .ok (.mthi (specialBits w))
  | 0x12#6 => .ok (.mflo (specialBits w))
  | 0x13#6 => .ok (.mtlo (specialBits w))
  | 0x18#6 => .ok (.mult (specialBits w))
  | 0x19#6 => .ok (.multu (specialBits w))
  | 0x1A#6 => .ok (.div (specialBits w))
  | 0x1B#6 => .ok (.divu (specialBits w))
  | 0x20#6 => .ok (.add (rdField w) (rsField w) (rtField w) (shamtField w))
  | 0x21#6 => .ok (.addu (rdField w) (rsField w) (rtField w) (shamtField w))
  | 0x22#6 => .ok (.sub (specialBits w))
  | 0x23#6 => .ok (.subu (specialBits w))
  | 0x24#6 => .ok (.and (rdField w) (rsField w) (rtField w) (shamtField w))
  | 0x25#6 => .ok (.or (rdField w) (rsField w) (rtField w) (shamtField w))
  | 0x26#6 => .ok (.xor (rdField w) (rsField w) (rtField w) (shamtField w))
  | 0x27#6 => .ok (.nor (specialBits w))
  | 0x2A#6 => .ok (.slt (specialBits w))
  | 0x2B#6 => .ok (.sltu (specialBits w))
  | funct => .error (.emptySpecial funct)

/-- The REGIMM (branch-condition) table, keyed by all five bits of w[20:16] (R97). -/
def decodeRegimm (w : Word) : Except DecodeReject Instr :=
  match rtField w with
  | 0x00#5 => .ok (.bltz (rsField w) (immField w))
  | 0x01#5 => .ok (.bgez (rsField w) (immField w))
  | 0x10#5 => .ok (.bltzal (rsField w) (immField w))
  | 0x11#5 => .ok (.bgezal (rsField w) (immField w))
  | cond => .error (.emptyRegimm cond)

/-- The COP0 table, keyed by w[25:21]; 0x10..0x1F are the COP0 operation space (R98). -/
def decodeCop0 (w : Word) : Except DecodeReject Instr :=
  match rsField w with
  | 0x00#5 => .ok (.mfc0 (rtField w) (rdField w) (lowField w))
  | 0x02#5 => .ok (.cfc0 (cop0Bits w))
  | 0x04#5 => .ok (.mtc0 (rtField w) (rdField w) (lowField w))
  | 0x06#5 => .ok (.ctc0 (cop0Bits w))
  | 0x08#5 => .ok (.bc0 (cop0Bits w))
  | sub => if 0x10#5 ≤ sub then .ok (.cop0Operation (coBits w)) else .error (.emptyCop0 sub)

/-- The decoder: the primary table, and through it the three secondary ones (R94, R95). It reads no state. -/
def decode (w : Word) : Except DecodeReject Instr :=
  match opField w with
  | 0x00#6 => decodeSpecial w
  | 0x01#6 => decodeRegimm w
  | 0x10#6 => decodeCop0 w
  | 0x02#6 => .ok (.j (targetField w))
  | 0x03#6 => .ok (.jal (targetField w))
  | 0x04#6 => .ok (.beq (rsField w) (rtField w) (immField w))
  | 0x05#6 => .ok (.bne (rsField w) (rtField w) (immField w))
  | 0x06#6 => .ok (.blez (rsField w) (immField w) (rtField w))
  | 0x07#6 => .ok (.bgtz (rsField w) (immField w) (rtField w))
  | 0x08#6 => .ok (.addi (rtField w) (rsField w) (immField w))
  | 0x09#6 => .ok (.addiu (rtField w) (rsField w) (immField w))
  | 0x0A#6 => .ok (.slti (targetField w))
  | 0x0B#6 => .ok (.sltiu (targetField w))
  | 0x0C#6 => .ok (.andi (rtField w) (rsField w) (immField w))
  | 0x0D#6 => .ok (.ori (rtField w) (rsField w) (immField w))
  | 0x0E#6 => .ok (.xori (targetField w))
  | 0x0F#6 => .ok (.lui (rtField w) (immField w) (rsField w))
  | 0x11#6 => .ok (.cop1 (targetField w))
  | 0x12#6 => .ok (.cop2 (targetField w))
  | 0x13#6 => .ok (.cop3 (targetField w))
  | 0x20#6 => .ok (.lb (rtField w) (rsField w) (immField w))
  | 0x21#6 => .ok (.lh (targetField w))
  | 0x22#6 => .ok (.lwl (targetField w))
  | 0x23#6 => .ok (.lw (rtField w) (rsField w) (immField w))
  | 0x24#6 => .ok (.lbu (rtField w) (rsField w) (immField w))
  | 0x25#6 => .ok (.lhu (rtField w) (rsField w) (immField w))
  | 0x26#6 => .ok (.lwr (targetField w))
  | 0x28#6 => .ok (.sb (rtField w) (rsField w) (immField w))
  | 0x29#6 => .ok (.sh (rtField w) (rsField w) (immField w))
  | 0x2A#6 => .ok (.swl (targetField w))
  | 0x2B#6 => .ok (.sw (rtField w) (rsField w) (immField w))
  | 0x2E#6 => .ok (.swr (targetField w))
  | 0x30#6 => .ok (.lwc0 (targetField w))
  | 0x31#6 => .ok (.lwc1 (targetField w))
  | 0x32#6 => .ok (.lwc2 (targetField w))
  | 0x33#6 => .ok (.lwc3 (targetField w))
  | 0x38#6 => .ok (.swc0 (targetField w))
  | 0x39#6 => .ok (.swc1 (targetField w))
  | 0x3A#6 => .ok (.swc2 (targetField w))
  | 0x3B#6 => .ok (.swc3 (targetField w))
  | op => .error (.emptyPrimary op)

/-- The word whose bytes, lowest address first, are the four given: little-endian (R63). -/
def wordOfBytes (b0 b1 b2 b3 : Byte) : Word := b3 ++ b2 ++ b1 ++ b0

/-- The four bytes of a word as memory holds them, lowest address first (R63). -/
def bytesOfWord (w : Word) : List Byte :=
  [w.extractLsb' 0 8, w.extractLsb' 8 8, w.extractLsb' 16 8, w.extractLsb' 24 8]

/-- The decoder over bytes: it takes one word, the only instruction length (R90), and returns the rest. -/
def decodeBytes : List Byte → Except DecodeReject (Instr × List Byte)
  | b0 :: b1 :: b2 :: b3 :: rest =>
    match decode (wordOfBytes b0 b1 b2 b3) with
    | .ok i => .ok (i, rest)
    | .error e => .error e
  | bytes => .error (.truncated bytes.length)

/-- The instruction decoded from a row's word of `nbits` bits, every bit above them zero. -/
def decodeTableWord (nbits w : Nat) : Option Instr :=
  match decodeBytes (bytesOfWord (BitVec.ofNat 32 (w % 2 ^ nbits))) with
  | .ok (i, _) => some i
  | .error _ => none

/-- R-type: SPECIAL, rs, rt, rd, shamt, funct (R92). -/
def rType (rs rt rd sa : BitVec 5) (funct : BitVec 6) : Word := 0x00#6 ++ rs ++ rt ++ rd ++ sa ++ funct

/-- A SPECIAL word by its 20 free bits and its funct (R99). -/
def spType (bits : BitVec 20) (funct : BitVec 6) : Word := 0x00#6 ++ bits ++ funct

/-- I-type, REGIMM included: op, rs, rt, imm16 (R92). -/
def iType (op : BitVec 6) (rs rt : BitVec 5) (imm : BitVec 16) : Word := op ++ rs ++ rt ++ imm

/-- J-type: op and the low 26 bits (R92). -/
def jType (op : BitVec 6) (target : BitVec 26) : Word := op ++ target

/-- A COP0 move: sub-opcode, rt, rd, ignored bits (R92). -/
def copType (sub rt rd : BitVec 5) (low : BitVec 11) : Word := 0x10#6 ++ sub ++ rt ++ rd ++ low

/-- A COP0 word by its sub-opcode and its 21 free bits (R98). -/
def cop0Type (sub : BitVec 5) (bits : BitVec 21) : Word := 0x10#6 ++ sub ++ bits

/-- A COP0 operation word: w[25] is 1 and 25 bits are free (R98). -/
def coType (bits : BitVec 25) : Word := 0x10#6 ++ 1#1 ++ bits

/-- The word of an instruction (R92, R95 to R98), its ignored fields included. -/
def encode : Instr → Word
  | .add rd rs rt sa => rType rs rt rd sa 0x20#6
  | .addu rd rs rt sa => rType rs rt rd sa 0x21#6
  | .addi rt rs imm => iType 0x08#6 rs rt imm
  | .addiu rt rs imm => iType 0x09#6 rs rt imm
  | .and rd rs rt sa => rType rs rt rd sa 0x24#6
  | .or rd rs rt sa => rType rs rt rd sa 0x25#6
  | .xor rd rs rt sa => rType rs rt rd sa 0x26#6
  | .andi rt rs imm => iType 0x0C#6 rs rt imm
  | .ori rt rs imm => iType 0x0D#6 rs rt imm
  | .sll rd rt shamt rs => rType rs rt rd shamt 0x00#6
  | .srl rd rt shamt rs => rType rs rt rd shamt 0x02#6
  | .sra rd rt shamt rs => rType rs rt rd shamt 0x03#6
  | .sllv rd rt rs sa => rType rs rt rd sa 0x04#6
  | .srlv rd rt rs sa => rType rs rt rd sa 0x06#6
  | .srav rd rt rs sa => rType rs rt rd sa 0x07#6
  | .lui rt imm rs => iType 0x0F#6 rs rt imm
  | .lb rt rs imm => iType 0x20#6 rs rt imm
  | .lbu rt rs imm => iType 0x24#6 rs rt imm
  | .lhu rt rs imm => iType 0x25#6 rs rt imm
  | .lw rt rs imm => iType 0x23#6 rs rt imm
  | .sb rt rs imm => iType 0x28#6 rs rt imm
  | .sh rt rs imm => iType 0x29#6 rs rt imm
  | .sw rt rs imm => iType 0x2B#6 rs rt imm
  | .j target => jType 0x02#6 target
  | .jal target => jType 0x03#6 target
  | .jr rs rt rd sa => rType rs rt rd sa 0x08#6
  | .jalr rd rs rt sa => rType rs rt rd sa 0x09#6
  | .beq rs rt imm => iType 0x04#6 rs rt imm
  | .bne rs rt imm => iType 0x05#6 rs rt imm
  | .blez rs imm rt => iType 0x06#6 rs rt imm
  | .bgtz rs imm rt => iType 0x07#6 rs rt imm
  | .bltz rs imm => iType 0x01#6 rs 0x00#5 imm
  | .bgez rs imm => iType 0x01#6 rs 0x01#5 imm
  | .bltzal rs imm => iType 0x01#6 rs 0x10#5 imm
  | .bgezal rs imm => iType 0x01#6 rs 0x11#5 imm
  | .mfc0 rt rd low => copType 0x00#5 rt rd low
  | .mtc0 rt rd low => copType 0x04#5 rt rd low
  | .slti bits => jType 0x0A#6 bits
  | .sltiu bits => jType 0x0B#6 bits
  | .xori bits => jType 0x0E#6 bits
  | .cop1 bits => jType 0x11#6 bits
  | .cop2 bits => jType 0x12#6 bits
  | .cop3 bits => jType 0x13#6 bits
  | .lh bits => jType 0x21#6 bits
  | .lwl bits => jType 0x22#6 bits
  | .lwr bits => jType 0x26#6 bits
  | .swl bits => jType 0x2A#6 bits
  | .swr bits => jType 0x2E#6 bits
  | .lwc0 bits => jType 0x30#6 bits
  | .lwc1 bits => jType 0x31#6 bits
  | .lwc2 bits => jType 0x32#6 bits
  | .lwc3 bits => jType 0x33#6 bits
  | .swc0 bits => jType 0x38#6 bits
  | .swc1 bits => jType 0x39#6 bits
  | .swc2 bits => jType 0x3A#6 bits
  | .swc3 bits => jType 0x3B#6 bits
  | .syscall bits => spType bits 0x0C#6
  | .brk bits => spType bits 0x0D#6
  | .mfhi bits => spType bits 0x10#6
  | .mthi bits => spType bits 0x11#6
  | .mflo bits => spType bits 0x12#6
  | .mtlo bits => spType bits 0x13#6
  | .mult bits => spType bits 0x18#6
  | .multu bits => spType bits 0x19#6
  | .div bits => spType bits 0x1A#6
  | .divu bits => spType bits 0x1B#6
  | .sub bits => spType bits 0x22#6
  | .subu bits => spType bits 0x23#6
  | .nor bits => spType bits 0x27#6
  | .slt bits => spType bits 0x2A#6
  | .sltu bits => spType bits 0x2B#6
  | .cfc0 bits => cop0Type 0x02#5 bits
  | .ctc0 bits => cop0Type 0x06#5 bits
  | .bc0 bits => cop0Type 0x08#5 bits
  | .cop0Operation bits => coType bits

/-- The `match` of an instruction's row in spec/opcode_table.json: the value of the row's fixed bits. -/
def Instr.rowMatch : Instr → Word
  | .add _ _ _ _ => 0x00000020#32
  | .addu _ _ _ _ => 0x00000021#32
  | .addi _ _ _ => 0x20000000#32
  | .addiu _ _ _ => 0x24000000#32
  | .and _ _ _ _ => 0x00000024#32
  | .or _ _ _ _ => 0x00000025#32
  | .xor _ _ _ _ => 0x00000026#32
  | .andi _ _ _ => 0x30000000#32
  | .ori _ _ _ => 0x34000000#32
  | .sll _ _ _ _ => 0x00000000#32
  | .srl _ _ _ _ => 0x00000002#32
  | .sra _ _ _ _ => 0x00000003#32
  | .sllv _ _ _ _ => 0x00000004#32
  | .srlv _ _ _ _ => 0x00000006#32
  | .srav _ _ _ _ => 0x00000007#32
  | .lui _ _ _ => 0x3C000000#32
  | .lb _ _ _ => 0x80000000#32
  | .lbu _ _ _ => 0x90000000#32
  | .lhu _ _ _ => 0x94000000#32
  | .lw _ _ _ => 0x8C000000#32
  | .sb _ _ _ => 0xA0000000#32
  | .sh _ _ _ => 0xA4000000#32
  | .sw _ _ _ => 0xAC000000#32
  | .j _ => 0x08000000#32
  | .jal _ => 0x0C000000#32
  | .jr _ _ _ _ => 0x00000008#32
  | .jalr _ _ _ _ => 0x00000009#32
  | .beq _ _ _ => 0x10000000#32
  | .bne _ _ _ => 0x14000000#32
  | .blez _ _ _ => 0x18000000#32
  | .bgtz _ _ _ => 0x1C000000#32
  | .bltz _ _ => 0x04000000#32
  | .bgez _ _ => 0x04010000#32
  | .bltzal _ _ => 0x04100000#32
  | .bgezal _ _ => 0x04110000#32
  | .mfc0 _ _ _ => 0x40000000#32
  | .mtc0 _ _ _ => 0x40800000#32
  | .slti _ => 0x28000000#32
  | .sltiu _ => 0x2C000000#32
  | .xori _ => 0x38000000#32
  | .cop1 _ => 0x44000000#32
  | .cop2 _ => 0x48000000#32
  | .cop3 _ => 0x4C000000#32
  | .lh _ => 0x84000000#32
  | .lwl _ => 0x88000000#32
  | .lwr _ => 0x98000000#32
  | .swl _ => 0xA8000000#32
  | .swr _ => 0xB8000000#32
  | .lwc0 _ => 0xC0000000#32
  | .lwc1 _ => 0xC4000000#32
  | .lwc2 _ => 0xC8000000#32
  | .lwc3 _ => 0xCC000000#32
  | .swc0 _ => 0xE0000000#32
  | .swc1 _ => 0xE4000000#32
  | .swc2 _ => 0xE8000000#32
  | .swc3 _ => 0xEC000000#32
  | .syscall _ => 0x0000000C#32
  | .brk _ => 0x0000000D#32
  | .mfhi _ => 0x00000010#32
  | .mthi _ => 0x00000011#32
  | .mflo _ => 0x00000012#32
  | .mtlo _ => 0x00000013#32
  | .mult _ => 0x00000018#32
  | .multu _ => 0x00000019#32
  | .div _ => 0x0000001A#32
  | .divu _ => 0x0000001B#32
  | .sub _ => 0x00000022#32
  | .subu _ => 0x00000023#32
  | .nor _ => 0x00000027#32
  | .slt _ => 0x0000002A#32
  | .sltu _ => 0x0000002B#32
  | .cfc0 _ => 0x40400000#32
  | .ctc0 _ => 0x40C00000#32
  | .bc0 _ => 0x41000000#32
  | .cop0Operation _ => 0x42000000#32

/-- The `mask` of an instruction's row in spec/opcode_table.json: which bits the row fixes. -/
def Instr.rowMask : Instr → Word
  | .add _ _ _ _ => 0xFC00003F#32
  | .addu _ _ _ _ => 0xFC00003F#32
  | .addi _ _ _ => 0xFC000000#32
  | .addiu _ _ _ => 0xFC000000#32
  | .and _ _ _ _ => 0xFC00003F#32
  | .or _ _ _ _ => 0xFC00003F#32
  | .xor _ _ _ _ => 0xFC00003F#32
  | .andi _ _ _ => 0xFC000000#32
  | .ori _ _ _ => 0xFC000000#32
  | .sll _ _ _ _ => 0xFC00003F#32
  | .srl _ _ _ _ => 0xFC00003F#32
  | .sra _ _ _ _ => 0xFC00003F#32
  | .sllv _ _ _ _ => 0xFC00003F#32
  | .srlv _ _ _ _ => 0xFC00003F#32
  | .srav _ _ _ _ => 0xFC00003F#32
  | .lui _ _ _ => 0xFC000000#32
  | .lb _ _ _ => 0xFC000000#32
  | .lbu _ _ _ => 0xFC000000#32
  | .lhu _ _ _ => 0xFC000000#32
  | .lw _ _ _ => 0xFC000000#32
  | .sb _ _ _ => 0xFC000000#32
  | .sh _ _ _ => 0xFC000000#32
  | .sw _ _ _ => 0xFC000000#32
  | .j _ => 0xFC000000#32
  | .jal _ => 0xFC000000#32
  | .jr _ _ _ _ => 0xFC00003F#32
  | .jalr _ _ _ _ => 0xFC00003F#32
  | .beq _ _ _ => 0xFC000000#32
  | .bne _ _ _ => 0xFC000000#32
  | .blez _ _ _ => 0xFC000000#32
  | .bgtz _ _ _ => 0xFC000000#32
  | .bltz _ _ => 0xFC1F0000#32
  | .bgez _ _ => 0xFC1F0000#32
  | .bltzal _ _ => 0xFC1F0000#32
  | .bgezal _ _ => 0xFC1F0000#32
  | .mfc0 _ _ _ => 0xFFE00000#32
  | .mtc0 _ _ _ => 0xFFE00000#32
  | .slti _ => 0xFC000000#32
  | .sltiu _ => 0xFC000000#32
  | .xori _ => 0xFC000000#32
  | .cop1 _ => 0xFC000000#32
  | .cop2 _ => 0xFC000000#32
  | .cop3 _ => 0xFC000000#32
  | .lh _ => 0xFC000000#32
  | .lwl _ => 0xFC000000#32
  | .lwr _ => 0xFC000000#32
  | .swl _ => 0xFC000000#32
  | .swr _ => 0xFC000000#32
  | .lwc0 _ => 0xFC000000#32
  | .lwc1 _ => 0xFC000000#32
  | .lwc2 _ => 0xFC000000#32
  | .lwc3 _ => 0xFC000000#32
  | .swc0 _ => 0xFC000000#32
  | .swc1 _ => 0xFC000000#32
  | .swc2 _ => 0xFC000000#32
  | .swc3 _ => 0xFC000000#32
  | .syscall _ => 0xFC00003F#32
  | .brk _ => 0xFC00003F#32
  | .mfhi _ => 0xFC00003F#32
  | .mthi _ => 0xFC00003F#32
  | .mflo _ => 0xFC00003F#32
  | .mtlo _ => 0xFC00003F#32
  | .mult _ => 0xFC00003F#32
  | .multu _ => 0xFC00003F#32
  | .div _ => 0xFC00003F#32
  | .divu _ => 0xFC00003F#32
  | .sub _ => 0xFC00003F#32
  | .subu _ => 0xFC00003F#32
  | .nor _ => 0xFC00003F#32
  | .slt _ => 0xFC00003F#32
  | .sltu _ => 0xFC00003F#32
  | .cfc0 _ => 0xFFE00000#32
  | .ctc0 _ => 0xFFE00000#32
  | .bc0 _ => 0xFFE00000#32
  | .cop0Operation _ => 0xFE000000#32

end Sys2Proof
end

