-- ==== Sys2Proof/Config.lean ====
section
/-! DEFINITION. What the host fixes when it builds a core and no step changes (R7, R37, R51, R52 of spec/).
The values themselves are in Machine/Defaults.lean. The core has no free value: no instruction of it leaves a
result undefined (R182, R246 and Part 1 of 93_implementation_defined.md). -/

namespace Sys2Proof

/-- The tag naming a backing region (R51). -/
inductive MemorySegment where
  | ram
  | bios
  /-- Hardware registers, a stub: reads 0, ignores writes (R61, R310). -/
  | hwreg
  /-- Cache control, a stub: reads 0, ignores writes (R61, R75, R310). -/
  | cachectl
  deriving DecidableEq, Repr

/-- One window of the memory map. It covers `base .. base + size`, the upper bound included (R52). -/
structure Window where
  segment : MemorySegment
  base : Nat
  size : Nat
  deriving DecidableEq, Repr

/-- A segment and a byte offset into its backing store (R51). -/
structure SegmentAndOffset where
  segment : MemorySegment
  offset : Nat
  deriving DecidableEq, Repr

/-- The outcome of decoding a MIPS-I instruction the source does not name (R7, R100, D6). -/
inductive UnlistedPolicy where
  | refuse
  | notImplemented
  deriving DecidableEq, Repr

/-- The two parameters of R7 that a step reads. They are inputs, not state of the core (R37). -/
structure Config where
  /-- `MEMORY_MAP`, in the translator's priority order. -/
  memoryMap : List Window
  /-- `UNLISTED_POLICY`. -/
  unlistedPolicy : UnlistedPolicy
  deriving DecidableEq, Repr

end Sys2Proof
end

