-- ==== Sys2Proof/Machine/Defaults.lean ====
section
/-! DEFINITION. The parameter values and fixed numbers of the core (R6, R7, R29, R30, R38, R52 of spec/). -/

namespace Sys2Proof.Machine

/-- RAM size, 2048 KiB (R6). -/
def ramSize : Nat := 0x200000

/-- BIOS size, 512 KiB (R6). -/
def biosSize : Nat := 0x80000

/-- The ten windows, in the translator's priority order (R52). -/
def defaultMemoryMap : List Window :=
  [⟨.ram, 0x00000000, 0x200000⟩, ⟨.ram, 0x80000000, 0x200000⟩, ⟨.ram, 0xA0000000, 0x200000⟩,
   ⟨.bios, 0x1FC00000, 0x80000⟩, ⟨.bios, 0x9FC00000, 0x80000⟩, ⟨.bios, 0xBFC00000, 0x80000⟩,
   ⟨.hwreg, 0x1F801000, 0x2000⟩, ⟨.hwreg, 0x9F801000, 0x2000⟩, ⟨.hwreg, 0xBF801000, 0x2000⟩,
   ⟨.cachectl, 0xFFFE0000, 0x200⟩]

/-- The parameters a step reads, at the spec's defaults (R7). -/
def defaultConfig : Config := { memoryMap := defaultMemoryMap, unlistedPolicy := .refuse }

/-- `BIOS_ENTRY`, the reset value of the pc (R7, R38). -/
def biosEntry : Word := 0xBFC00000#32

/-- `STATUS_RESET`, the reset value of the status register (R7, R38). -/
def statusReset : Word := 0x00000000#32

/-- `SENTINEL` in `State.reset`. DESIGN CHOICE (log 1): the spec leaves it open but for not being zero (R7).
Unsafe for a claim about a register not written since `State.reset`. -/
def sentinel : Word := 0xCDCDCDCD#32

/-- The cop0 index of the status register (R29). -/
def statusIndex : RegIndex := 12#5

/-- The bit of the status register that isolates the cache (R30). -/
def isolationBit : Nat := 16

/-- The link register of JAL, BLTZAL and BGEZAL (R232). -/
def linkRegister : RegIndex := 31#5

end Sys2Proof.Machine
end

