-- ==== Sys2Proof/Machine/Memory.lean ====
section
/-! DEFINITION. A byte store: the backing store of RAM or of the BIOS, as a list of (offset, byte) pairs (R34).

Canonical form: offsets strictly rising, and no entry equal to what an unlisted offset reads as. -/

namespace Sys2Proof.Machine

/-- A backing store. -/
abbrev Memory := List Host.Cell

/-- What an unlisted offset reads as. DESIGN CHOICE (log 3): the spec leaves RAM_INIT open and takes the BIOS image as an
input; the conventions of 95_test_vectors.md make the rest of both zero. Unsafe for a claim about a byte nothing has set. -/
def Memory.blank : Byte := 0#8

/-- The byte at an offset. -/
def Memory.read : Memory → Nat → Byte
  | [], _ => Memory.blank
  | (k, b) :: rest, a => if a < k then Memory.blank else if a = k then b else Memory.read rest a

/-- The store with one byte written, in canonical form if it was. -/
def Memory.write : Memory → Nat → Byte → Memory
  | [], a, v => if v = Memory.blank then [] else [(a, v)]
  | (k, b) :: rest, a, v =>
    if a < k then (if v = Memory.blank then (k, b) :: rest else (a, v) :: (k, b) :: rest)
    else if a = k then (if v = Memory.blank then rest else (a, v) :: rest)
    else (k, b) :: Memory.write rest a v

/-- Canonical from an offset on: offsets rise strictly from `lo`, and no entry is blank. -/
def Memory.wfFrom (lo : Nat) : Memory → Bool
  | [] => true
  | (k, b) :: rest => decide (lo ≤ k) && decide (b ≠ Memory.blank) && Memory.wfFrom (k + 1) rest

/-- The canonical form. -/
def Memory.wf (m : Memory) : Bool := Memory.wfFrom 0 m

/-- Every listed offset lies inside a store of `size` bytes. -/
def Memory.fits (size : Nat) : Memory → Bool
  | [] => true
  | (k, _) :: rest => decide (k < size) && Memory.fits size rest

/-- The little-endian value of `n` bytes from an offset: `store[off] | store[off+1] << 8 | ...` (R57). -/
def readBytes (m : Memory) (off : Nat) : Nat → Word
  | 0 => 0#32
  | n + 1 => (Memory.read m off).setWidth 32 ||| (readBytes m (off + 1) n <<< 8)

/-- `n` bytes written from an offset, byte `j` being bits `8j+7..8j` of the value (R58). -/
def writeBytes (m : Memory) (off : Nat) : Nat → Word → Memory
  | 0, _ => m
  | n + 1, v => writeBytes (Memory.write m off (v.setWidth 8)) (off + 1) n (v >>> 8)

/-- The bytes of a list, from an offset on, in canonical form. -/
def Memory.ofBytesFrom (off : Nat) : List Byte → Memory
  | [] => []
  | b :: bs =>
    if b = Memory.blank then Memory.ofBytesFrom (off + 1) bs else (off, b) :: Memory.ofBytesFrom (off + 1) bs

/-- A store filled from a byte sequence (R34, R340). -/
def Memory.ofBytes (bs : List Byte) : Memory := Memory.ofBytesFrom 0 bs

end Sys2Proof.Machine
end

