-- ==== Sys2Proof/Machine/State.lean ====
section
/-! DEFINITION. The state of the core (10_state.md of spec/), its fatal conditions and halt records (60_exceptions.md),
and the state right after reset (R38). -/

namespace Sys2Proof.Machine

/-- The fatal conditions, in the order of the taxonomy, with the information each one records (R300). -/
inductive Condition where
  /-- An encoding with no handler. Raised by Decode. -/
  | opcodeNotImplemented
  /-- Signed overflow. Raised by ADD and ADDI. -/
  | arithmeticOverflow
  /-- A nonzero write to a cop0 register other than the status register. Raised by MTC0. -/
  | controlRegisterWriteRejected (index : RegIndex) (value : Word)
  /-- A write to a read-only region. Raised by nothing: kept for completeness (R62). -/
  | illegalWrite
  /-- An address in no window. Raised by fetch, loads and stores (R54). -/
  | addressNotMapped (address : Word)
  /-- An access past the end of RAM or the BIOS. Raised by fetch, loads and stores (R59). -/
  | outOfBounds (address : Word) (offset width : Nat)
  /-- A BIOS image of the wrong length. Raised by construction only (R341). -/
  | sizeMismatch (length : Nat)
  deriving DecidableEq, Repr

/-- The spec's own ordinal of a condition (R300, D27). -/
def Condition.code : Condition → Nat
  | .opcodeNotImplemented => 1
  | .arithmeticOverflow => 2
  | .controlRegisterWriteRejected _ _ => 3
  | .illegalWrite => 4
  | .addressNotMapped _ => 5
  | .outOfBounds _ _ _ => 6
  | .sizeMismatch _ => 7

/-- The phase of a step a condition was raised in (R302). -/
inductive Phase where
  | fetch
  | decode
  | execute
  deriving DecidableEq, Repr

/-- The record of a fatal condition: the condition with its information, the phase, the address of the step's fetch,
and the word, when the fetch completed (R302). -/
structure FaultRecord where
  condition : Condition
  phase : Phase
  address : Word
  word : Option Word
  deriving DecidableEq, Repr

/-- The record of a refusal: `A`, `w` and the mnemonic (R104, R307). -/
structure RefusalRecord where
  address : Word
  word : Word
  mnemonic : UnlistedName
  deriving DecidableEq, Repr

/-- Whether the core may take another step (R35). -/
inductive Halt where
  | running
  | faulted (record : FaultRecord)
  | refused (record : RefusalRecord)
  deriving DecidableEq, Repr

/-- A pending load: destination register and value (R32). -/
structure LoadSlot where
  reg : RegIndex
  value : Word
  deriving DecidableEq, Repr

/-- A pending branch: its target address (R33). -/
structure BranchSlot where
  target : Word
  deriving DecidableEq, Repr

/-- The 31 stored general-purpose registers: r1 is element 0. r0 is not stored (R20). -/
abbrev Gprs := Vector Word 31

/-- The 32 cop0 registers (R27). -/
abbrev Cop0 := Vector Word 32

/-- The complete state of the core (section 1 of 10_state.md), and the parameters its steps read. -/
structure State where
  /-- `gpr[1..31]` (R20). -/
  gpr : Gprs
  /-- The program counter (R25). -/
  pc : Word
  /-- `cop0[0..31]` (R27). -/
  cop0 : Cop0
  /-- `LQ[0]`, the imminent load (R32). -/
  lq0 : Option LoadSlot
  /-- `LQ[1]`, the load not yet due (R32). -/
  lq1 : Option LoadSlot
  /-- `BQ[0]`, the imminent branch (R33). -/
  bq0 : Option BranchSlot
  /-- `BQ[1]`, the branch not yet due (R33). -/
  bq1 : Option BranchSlot
  /-- `ram` (R34). -/
  ram : Memory
  /-- `bios` (R34). -/
  bios : Memory
  /-- `halt` (R35). -/
  halt : Halt
  /-- The model's own field: the parameters of R7 that a step reads, which no step changes (R37; log 5). -/
  config : Config
  deriving DecidableEq, Repr

/-- The host outcome of a step that is not enabled. -/
inductive Fault where
  /-- `step` of a state whose `halt` is not `running`: no step is enabled (R35, R121). Raised by `step` alone, never by a
  meaning. Safe: the core does not go on either. -/
  | notRunning
  deriving DecidableEq, Repr

/-- The host outcome of an instruction without a meaning. -/
inductive Refusal where
  /-- No meaning yet. Raised by an arm of `exec` alone. Safe. No arm raises it: every row has its meaning. -/
  | notModelled (mnemonic : String)
  deriving DecidableEq, Repr

/-- The state right after reset (R38, R340), built with the spec's defaults. The parameters the spec leaves open take the
values of the log: SENTINEL (log 1), RAM_INIT and BIOS_IMAGE (log 3). `construct` takes every one as an argument. -/
def State.reset : State where
  gpr := Vector.replicate 31 sentinel
  pc := biosEntry
  cop0 := (Vector.replicate 32 sentinel).set 12 statusReset
  lq0 := none
  lq1 := none
  bq0 := none
  bq1 := none
  ram := []
  bios := []
  halt := .running
  config := defaultConfig

end Sys2Proof.Machine
end

