-- ==== Sys2Proof/Machine/Ops.lean ====
section
/-! DEFINITION. The named operations over the state: register files, delay queues, address translation, memory, taking a
fatal condition, refusing, fetch and commit. Every meaning is built from them. -/

namespace Sys2Proof.Machine

/-- What a meaning answers. -/
abbrev Result := Host.Outcome State Fault Refusal

/-! ### General-purpose registers -/

/-- `get(i)` on the register file: r0 reads 0 (R21). -/
def readGpr (g : Gprs) (i : RegIndex) : Word :=
  if i = 0#5 then 0#32 else g.getD (i.toNat - 1) 0#32

/-- `set(i, v)` on the register file: a write to r0 is discarded (R22). -/
def writeGpr (g : Gprs) (i : RegIndex) (v : Word) : Gprs :=
  if i = 0#5 then g else g.setIfInBounds (i.toNat - 1) v

/-- `x[i]` (R11, R21). -/
def State.getReg (s : State) (i : RegIndex) : Word := readGpr s.gpr i

/-- `x[i] <- v` (R11, R22). -/
def State.setReg (s : State) (i : RegIndex) (v : Word) : State := { s with gpr := writeGpr s.gpr i v }

/-! ### Control registers -/

/-- `getControl(i)`: no restriction on reads (R28). -/
def State.getControl (s : State) (i : RegIndex) : Word := s.cop0.getD i.toNat 0#32

/-- The write policy: the status register takes any value, every other register only zero (R29). -/
def controlWriteAccepted (i : RegIndex) (v : Word) : Bool := i == statusIndex || v == 0#32

/-- An accepted `c0[i] <- v` stores the value as it is (R29). -/
def State.putControl (s : State) (i : RegIndex) (v : Word) : State :=
  { s with cop0 := s.cop0.setIfInBounds i.toNat v }

/-- `setControl(i, v)` (R29). -/
def State.setControl (s : State) (i : RegIndex) (v : Word) : Except Condition State :=
  if controlWriteAccepted i v then .ok (s.putControl i v) else .error (.controlRegisterWriteRejected i v)

/-- The cache-isolation bit of the status register (R30). -/
def State.isolated (s : State) : Bool := (s.getControl statusIndex).getLsbD isolationBit

/-! ### Delay queues -/

/-- `scheduleLoad(r, v)`: into position 1, overwriting (R125). -/
def State.scheduleLoad (s : State) (r : RegIndex) (v : Word) : State := { s with lq1 := some ⟨r, v⟩ }

/-- `scheduleBranch(t)`: into position 1, overwriting (R126). -/
def State.scheduleBranch (s : State) (t : Word) : State := { s with bq1 := some ⟨t⟩ }

/-- A load slot after `invalidateLoad(r)`: dropped if it targets `r` (R127). -/
def dropLoad (slot : Option LoadSlot) (r : RegIndex) : Option LoadSlot :=
  match slot with
  | some l => if l.reg = r then none else some l
  | none => none

/-- `invalidateLoad(r)`: cancels the imminent load to `r`, never the one not yet due (R127). -/
def State.invalidateLoad (s : State) (r : RegIndex) : State := { s with lq0 := dropLoad s.lq0 r }

/-- An instruction's direct register write: `set`, then `invalidateLoad` of the same index (R22, R127). -/
def State.directWrite (s : State) (r : RegIndex) (v : Word) : State := (s.setReg r v).invalidateLoad r

/-- The register file after a load slot commits through `set` (R129). -/
def commitGpr (g : Gprs) (slot : Option LoadSlot) : Gprs :=
  match slot with
  | some l => writeGpr g l.reg l.value
  | none => g

/-- The pc after a branch slot commits (R130). -/
def commitPc (pc : Word) (slot : Option BranchSlot) : Word :=
  match slot with
  | some b => b.target
  | none => pc

/-- The load half of CommitStep (R128, R129). -/
def State.commitLoad (s : State) : State := { s with gpr := commitGpr s.gpr s.lq0, lq0 := s.lq1, lq1 := none }

/-- The branch half of CommitStep (R128, R130). -/
def State.commitBranch (s : State) : State := { s with pc := commitPc s.pc s.bq0, bq0 := s.bq1, bq1 := none }

/-- `CommitStep()`: load queue first, then branch queue (R128). -/
def State.commitStep (s : State) : State := s.commitLoad.commitBranch

/-! ### Fatal conditions and refusals -/

/-- TAKING A FATAL CONDITION (R13, R301, R302): `halt <- faulted(record)`. Nothing is saved, no mode changes and control goes
to no vector (R304); there is no return from it (R306). The state passed in is the one at the raise. -/
def State.raise (s : State) (c : Condition) (phase : Phase) (address : Word) (word : Option Word) : State :=
  { s with halt := .faulted { condition := c, phase := phase, address := address, word := word } }

/-- `A` during decode and execute, where the pc holds `A + 4` (R25). -/
def State.fetchAddress (s : State) : Word := s.pc - 4#32

/-- A condition raised by the instruction whose word is `w`, in its execute phase (R302). -/
def State.raiseExecute (s : State) (w : Word) (c : Condition) : State :=
  s.raise c .execute s.fetchAddress (some w)

/-- The OpcodeNotImplemented of decode: an Empty entry, or an Unlisted one under `notImplemented` (R101, R100). -/
def State.raiseDecode (s : State) (w : Word) : State :=
  s.raise .opcodeNotImplemented .decode s.fetchAddress (some w)

/-- `refuse UnlistedEncoding(A, w, name)`: only `halt` changes (R104, R307). -/
def State.refuse (s : State) (w : Word) (name : UnlistedName) : State :=
  { s with halt := .refused { address := s.fetchAddress, word := w, mnemonic := name } }

/-- An Unlisted entry, under the policy in force (R94, R100). -/
def State.unlisted (s : State) (w : Word) (name : UnlistedName) : State :=
  match s.config.unlistedPolicy with
  | .refuse => s.refuse w name
  | .notImplemented => s.raiseDecode w

/-! ### Address translation and memory -/

/-- `resolve`: the first window whose range, upper bound included, holds the address (R53). -/
def resolve : List Window → Word → Option SegmentAndOffset
  | [], _ => none
  | win :: rest, a =>
    if win.base ≤ a.toNat ∧ a.toNat ≤ win.base + win.size then some ⟨win.segment, a.toNat - win.base⟩
    else resolve rest a

/-- Access widths (R67). -/
inductive Width where
  | byte
  | half
  | word
  deriving DecidableEq, Repr

/-- The number of bytes of a width. -/
def widthBytes : Width → Nat
  | .byte => 1
  | .half => 2
  | .word => 4

/-- A region's bounds-checked read (R57, R59). -/
def boundedRead (m : Memory) (size : Nat) (a : Word) (off n : Nat) : Except Condition Word :=
  if size < off + n then .error (.outOfBounds a off n) else .ok (readBytes m off n)

/-- `MemRead(a, n)` (R57). -/
def State.memRead (s : State) (a : Word) (n : Width) : Except Condition Word :=
  match resolve s.config.memoryMap a with
  | none => .error (.addressNotMapped a)
  | some ⟨.hwreg, _⟩ => .ok 0#32
  | some ⟨.cachectl, _⟩ => .ok 0#32
  | some ⟨.ram, off⟩ => boundedRead s.ram ramSize a off (widthBytes n)
  | some ⟨.bios, off⟩ => boundedRead s.bios biosSize a off (widthBytes n)

/-- `MemWrite(a, n, v)`: a raise changes no byte (R58). -/
def State.memWrite (s : State) (a : Word) (n : Width) (v : Word) : Except Condition State :=
  match resolve s.config.memoryMap a with
  | none => .error (.addressNotMapped a)
  | some ⟨.hwreg, _⟩ => .ok s
  | some ⟨.cachectl, _⟩ => .ok s
  | some ⟨.bios, _⟩ => .ok s
  | some ⟨.ram, off⟩ =>
    if ramSize < off + widthBytes n then .error (.outOfBounds a off (widthBytes n))
    else .ok { s with ram := writeBytes s.ram off (widthBytes n) v }

/-! ### The phases of a step -/

/-- `Fetch(pc)`: a word read, with every routing rule (R66). -/
def State.fetch (s : State) : Except Condition Word := s.memRead s.pc .word

/-- `pc <- A + 4`, modulo 2^32 (R25, R26, R120). -/
def State.advancePc (s : State) : State := { s with pc := s.pc + 4#32 }

/-- A condition raised by the fetch itself: the pc stays `A` and there is no word (R302). -/
def State.raiseFetch (s : State) (c : Condition) : State := s.raise c .fetch s.pc none

/-- The end of a step: CommitStep, unless a condition or a refusal ended it (R13, R120). -/
def State.finish (s : State) : State :=
  match s.halt with
  | .running => s.commitStep
  | .faulted _ => s
  | .refused _ => s

/-- The end of a step, on what the meaning answered. -/
def finishResult : Result → Result
  | .next s => .next s.finish
  | .fault r => .fault r
  | .refused r => .refused r

/-! ### What the meanings share -/

/-- A direct write of a computed value: the shape of every instruction of R170 to R181, ADDU and ADDIU. -/
def writeResult (s : State) (r : RegIndex) (v : Word) : Result := .next (s.directWrite r v)

/-- A direct write, or ArithmeticOverflow before any write (R123, R153, R155). -/
def writeChecked (s : State) (w : Word) (overflow : Bool) (r : RegIndex) (v : Word) : Result :=
  if overflow then .next (s.raiseExecute w .arithmeticOverflow) else writeResult s r v

/-- A load: memory is read now, the register is written later (R201). -/
def loadFrom (s : State) (w : Word) (r : RegIndex) (ea : Word) (n : Width) (extend : Word → Word) : Result :=
  match s.memRead ea n with
  | .error c => .next (s.raiseExecute w c)
  | .ok m => .next (s.scheduleLoad r (extend m))

/-- A store: suppressed under cache isolation, before any translation (R206, R207). -/
def storeTo (s : State) (w : Word) (ea : Word) (n : Width) (v : Word) : Result :=
  if s.isolated then .next s
  else
    match s.memWrite ea n v with
    | .error c => .next (s.raiseExecute w c)
    | .ok t => .next t

/-- A conditional branch: scheduled when taken, nothing when not (R245). -/
def State.branchIf (s : State) (taken : Bool) (target : Word) : State :=
  if taken then s.scheduleBranch target else s

/-! ### Placing a word for the next fetch -/

/-- The store with the four bytes of a word at an offset. -/
def placeBytes (m : Memory) (off : Nat) (w : Word) : Memory := writeBytes m off 4 w

/-- Where the next fetch reads its four bytes, if it reads a byte store inside its bounds (R66). -/
def State.fetchPlace (s : State) : Option SegmentAndOffset :=
  match resolve s.config.memoryMap s.pc with
  | some ⟨.ram, off⟩ => if off + 4 ≤ ramSize then some ⟨.ram, off⟩ else none
  | some ⟨.bios, off⟩ => if off + 4 ≤ biosSize then some ⟨.bios, off⟩ else none
  | _ => none

/-- `s` with a word where the next fetch reads it, and the step enabled. It stands for building the core with that word in
BIOS_IMAGE or RAM_INIT (R340; log 7). Where the pc is at no byte store, the word goes to BIOS offset 0 and the pc to
BIOS_ENTRY. -/
def State.placeAtPc (s : State) (w : Word) : State :=
  match s.fetchPlace with
  | some ⟨.ram, off⟩ => { s with ram := placeBytes s.ram off w, halt := .running }
  | some ⟨_, off⟩ => { s with bios := placeBytes s.bios off w, halt := .running }
  | none => { s with bios := placeBytes s.bios 0 w, pc := biosEntry, halt := .running }

end Sys2Proof.Machine
end

