-- ==== Sys2Proof/Machine/Operands.lean ====
section
/-! DEFINITION. How each instruction assembles its operands (R93, R200, R230, R231, R232 of spec/). -/

namespace Sys2Proof.Machine

/-- `simm = sext_32(imm16)` (R10, R91). -/
def simm (imm : BitVec 16) : Word := imm.signExtend 32

/-- `zimm = zext_32(imm16)` (R10, R91). -/
def zimm (imm : BitVec 16) : Word := imm.setWidth 32

/-- `imm16 || 0^16` (R93, R181). -/
def upperImm (imm : BitVec 16) : Word := imm ++ 0#16

/-- The effective address: base plus sign-extended offset, modulo 2^32 (R200). -/
def effectiveAddress (s : State) (rs : RegIndex) (imm : BitVec 16) : Word := s.getReg rs + simm imm

/-- `A + 4`, the address of the delay slot. -/
def delaySlotAddress (s : State) : Word := s.fetchAddress + 4#32

/-- `A + 8`, the link value (R232). -/
def linkValue (s : State) : Word := s.fetchAddress + 8#32

/-- `(A + 4) + (sext_32(imm16) << 2)` (R230). -/
def branchTarget (s : State) (imm : BitVec 16) : Word := delaySlotAddress s + (simm imm <<< 2)

/-- `((A + 4) & 0xF0000000) | (target26 << 2)` (R231). -/
def jumpTarget (s : State) (target : BitVec 26) : Word :=
  (delaySlotAddress s &&& 0xF0000000#32) ||| (target.setWidth 32 <<< 2)

/-- The shift amount of a variable shift: the low 5 bits of the register (R178, R179, R180). -/
def shiftAmount (v : Word) : Nat := (v.extractLsb' 0 5).toNat

/-- The value LB delivers: bit 7 of the byte copied upward (R202). -/
def extendSignedByte (m : Word) : Word := (m.setWidth 8).signExtend 32

/-- The value LBU delivers (R203). -/
def extendByte (m : Word) : Word := (m.setWidth 8).setWidth 32

/-- The value LHU delivers (R204). -/
def extendHalf (m : Word) : Word := (m.setWidth 16).setWidth 32

end Sys2Proof.Machine
end

