-- ==== Sys2Proof/Machine/Arith.lean ====
section
/-! DEFINITION. The add family: ADD, ADDU, ADDI, ADDIU (41_arithmetic.md of spec/). -/

namespace Sys2Proof.Machine

/-- ADD (R153): signed add; ArithmeticOverflow before any write. -/
def execAdd (rd rs rt sa : BitVec 5) (s : State) : Result :=
  writeChecked s (encode (.add rd rs rt sa)) (signedOverflow (s.getReg rs) (s.getReg rt)) rd
    (s.getReg rs + s.getReg rt)

/-- ADDU (R154): add modulo 2^32. -/
def execAddu (rd rs rt : BitVec 5) (s : State) : Result :=
  writeResult s rd (s.getReg rs + s.getReg rt)

/-- ADDI (R155): signed add of the sign-extended immediate; ArithmeticOverflow before any write. -/
def execAddi (rt rs : BitVec 5) (imm : BitVec 16) (s : State) : Result :=
  writeChecked s (encode (.addi rt rs imm)) (signedOverflow (s.getReg rs) (simm imm)) rt (s.getReg rs + simm imm)

/-- ADDIU (R156): add of the sign-extended immediate, modulo 2^32. -/
def execAddiu (rt rs : BitVec 5) (imm : BitVec 16) (s : State) : Result :=
  writeResult s rt (s.getReg rs + simm imm)

end Sys2Proof.Machine
end

