-- ==== Sys2Proof/Machine/Branch.lean ====
section
/-! DEFINITION. Jumps and branches (44_branch_jump.md of spec/). None changes the pc: each schedules a target, and the link is
written at once. Conditions and targets are read before the link is written (R123). -/

namespace Sys2Proof.Machine

/-- J (R233). -/
def execJ (target : BitVec 26) (s : State) : Result := .next (s.scheduleBranch (jumpTarget s target))

/-- JAL (R234): links r31. -/
def execJal (target : BitVec 26) (s : State) : Result :=
  .next ((s.directWrite linkRegister (linkValue s)).scheduleBranch (jumpTarget s target))

/-- JR (R235): no check of the target. -/
def execJr (rs : BitVec 5) (s : State) : Result := .next (s.scheduleBranch (s.getReg rs))

/-- JALR (R236): links rd; the target is the old rs. -/
def execJalr (rd rs : BitVec 5) (s : State) : Result :=
  .next ((s.directWrite rd (linkValue s)).scheduleBranch (s.getReg rs))

/-- BEQ (R237). -/
def execBeq (rs rt : BitVec 5) (imm : BitVec 16) (s : State) : Result :=
  .next (s.branchIf (s.getReg rs == s.getReg rt) (branchTarget s imm))

/-- BNE (R238). -/
def execBne (rs rt : BitVec 5) (imm : BitVec 16) (s : State) : Result :=
  .next (s.branchIf (s.getReg rs != s.getReg rt) (branchTarget s imm))

/-- BLEZ (R239). -/
def execBlez (rs : BitVec 5) (imm : BitVec 16) (s : State) : Result :=
  .next (s.branchIf (isNotPositive (s.getReg rs)) (branchTarget s imm))

/-- BGTZ (R240). -/
def execBgtz (rs : BitVec 5) (imm : BitVec 16) (s : State) : Result :=
  .next (s.branchIf (isPositive (s.getReg rs)) (branchTarget s imm))

/-- BLTZ (R241). -/
def execBltz (rs : BitVec 5) (imm : BitVec 16) (s : State) : Result :=
  .next (s.branchIf (isNegative (s.getReg rs)) (branchTarget s imm))

/-- BGEZ (R242). -/
def execBgez (rs : BitVec 5) (imm : BitVec 16) (s : State) : Result :=
  .next (s.branchIf (isNotNegative (s.getReg rs)) (branchTarget s imm))

/-- BLTZAL (R243): links r31, taken or not. -/
def execBltzal (rs : BitVec 5) (imm : BitVec 16) (s : State) : Result :=
  .next ((s.directWrite linkRegister (linkValue s)).branchIf (isNegative (s.getReg rs)) (branchTarget s imm))

/-- BGEZAL (R244): links r31, taken or not. -/
def execBgezal (rs : BitVec 5) (imm : BitVec 16) (s : State) : Result :=
  .next ((s.directWrite linkRegister (linkValue s)).branchIf (isNotNegative (s.getReg rs)) (branchTarget s imm))

end Sys2Proof.Machine
end

