-- ==== Sys2Proof/Machine/Cop0Moves.lean ====
section
/-! DEFINITION. The control-coprocessor moves (45_cop0.md of spec/). No privilege check (R273). -/

namespace Sys2Proof.Machine

/-- MFC0 (R270): the register is read now and delivered like a load. -/
def execMfc0 (rt rd : BitVec 5) (s : State) : Result := .next (s.scheduleLoad rt (s.getControl rd))

/-- MTC0 (R271): immediate, or ControlRegisterWriteRejected. -/
def execMtc0 (rt rd : BitVec 5) (low : BitVec 11) (s : State) : Result :=
  match s.setControl rd (s.getReg rt) with
  | .error c => .next (s.raiseExecute (encode (.mtc0 rt rd low)) c)
  | .ok t => .next t

end Sys2Proof.Machine
end

