-- ==== Sys2Proof/Machine/LoadStore.lean ====
section
/-! DEFINITION. Loads and stores (43_load_store.md of spec/). -/

namespace Sys2Proof.Machine

/-- LB (R202). -/
def execLb (rt rs : BitVec 5) (imm : BitVec 16) (s : State) : Result :=
  loadFrom s (encode (.lb rt rs imm)) rt (effectiveAddress s rs imm) .byte extendSignedByte

/-- LBU (R203). -/
def execLbu (rt rs : BitVec 5) (imm : BitVec 16) (s : State) : Result :=
  loadFrom s (encode (.lbu rt rs imm)) rt (effectiveAddress s rs imm) .byte extendByte

/-- LHU (R204). -/
def execLhu (rt rs : BitVec 5) (imm : BitVec 16) (s : State) : Result :=
  loadFrom s (encode (.lhu rt rs imm)) rt (effectiveAddress s rs imm) .half extendHalf

/-- LW (R205). -/
def execLw (rt rs : BitVec 5) (imm : BitVec 16) (s : State) : Result :=
  loadFrom s (encode (.lw rt rs imm)) rt (effectiveAddress s rs imm) .word id

/-- SB (R208): the low byte of rt. -/
def execSb (rt rs : BitVec 5) (imm : BitVec 16) (s : State) : Result :=
  storeTo s (encode (.sb rt rs imm)) (effectiveAddress s rs imm) .byte (s.getReg rt)

/-- SH (R209): the low half-word of rt. -/
def execSh (rt rs : BitVec 5) (imm : BitVec 16) (s : State) : Result :=
  storeTo s (encode (.sh rt rs imm)) (effectiveAddress s rs imm) .half (s.getReg rt)

/-- SW (R210). -/
def execSw (rt rs : BitVec 5) (imm : BitVec 16) (s : State) : Result :=
  storeTo s (encode (.sw rt rs imm)) (effectiveAddress s rs imm) .word (s.getReg rt)

end Sys2Proof.Machine
end

