-- ==== Sys2Proof/Machine/Logical.lean ====
section
/-! DEFINITION. The logical, shift and upper-immediate family (42_logical_shift.md of spec/). Every one is total (R182). -/

namespace Sys2Proof.Machine

/-- AND (R170). -/
def execAnd (rd rs rt : BitVec 5) (s : State) : Result := writeResult s rd (s.getReg rs &&& s.getReg rt)

/-- OR (R171). -/
def execOr (rd rs rt : BitVec 5) (s : State) : Result := writeResult s rd (s.getReg rs ||| s.getReg rt)

/-- XOR (R172). -/
def execXor (rd rs rt : BitVec 5) (s : State) : Result := writeResult s rd (s.getReg rs ^^^ s.getReg rt)

/-- ANDI (R173): the immediate is zero-extended. -/
def execAndi (rt rs : BitVec 5) (imm : BitVec 16) (s : State) : Result :=
  writeResult s rt (s.getReg rs &&& zimm imm)

/-- ORI (R174): the immediate is zero-extended. -/
def execOri (rt rs : BitVec 5) (imm : BitVec 16) (s : State) : Result :=
  writeResult s rt (s.getReg rs ||| zimm imm)

/-- SLL (R175). -/
def execSll (rd rt shamt : BitVec 5) (s : State) : Result := writeResult s rd (s.getReg rt <<< shamt.toNat)

/-- SRL (R176): zeros shifted in. -/
def execSrl (rd rt shamt : BitVec 5) (s : State) : Result := writeResult s rd (s.getReg rt >>> shamt.toNat)

/-- SRA (R177): copies of bit 31 shifted in. -/
def execSra (rd rt shamt : BitVec 5) (s : State) : Result :=
  writeResult s rd ((s.getReg rt).sshiftRight shamt.toNat)

/-- SLLV (R178). -/
def execSllv (rd rt rs : BitVec 5) (s : State) : Result :=
  writeResult s rd (s.getReg rt <<< shiftAmount (s.getReg rs))

/-- SRLV (R179). -/
def execSrlv (rd rt rs : BitVec 5) (s : State) : Result :=
  writeResult s rd (s.getReg rt >>> shiftAmount (s.getReg rs))

/-- SRAV (R180). -/
def execSrav (rd rt rs : BitVec 5) (s : State) : Result :=
  writeResult s rd ((s.getReg rt).sshiftRight (shiftAmount (s.getReg rs)))

/-- LUI (R181): no load, it writes at once. -/
def execLui (rt : BitVec 5) (imm : BitVec 16) (s : State) : Result := writeResult s rt (upperImm imm)

end Sys2Proof.Machine
end

