-- ==== Sys2Proof/Machine/Unlisted.lean ====
section
/-! DEFINITION. The Unlisted MIPS-I encodings (R100, R104, R307 of spec/): 38 rows the spec gives no meaning. Each one refuses,
or raises OpcodeNotImplemented in the decode phase, as UNLISTED_POLICY says. Neither executes anything. -/

namespace Sys2Proof.Machine

/-- SLTI, Unlisted (R100). -/
def execSlti (bits : BitVec 26) (s : State) : Result := .next (s.unlisted (encode (.slti bits)) .slti)

/-- SLTIU, Unlisted (R100). -/
def execSltiu (bits : BitVec 26) (s : State) : Result := .next (s.unlisted (encode (.sltiu bits)) .sltiu)

/-- XORI, Unlisted (R100). -/
def execXori (bits : BitVec 26) (s : State) : Result := .next (s.unlisted (encode (.xori bits)) .xori)

/-- COP1, Unlisted (R100). -/
def execCop1 (bits : BitVec 26) (s : State) : Result := .next (s.unlisted (encode (.cop1 bits)) .cop1)

/-- COP2, Unlisted (R100). -/
def execCop2 (bits : BitVec 26) (s : State) : Result := .next (s.unlisted (encode (.cop2 bits)) .cop2)

/-- COP3, Unlisted (R100). -/
def execCop3 (bits : BitVec 26) (s : State) : Result := .next (s.unlisted (encode (.cop3 bits)) .cop3)

/-- LH, Unlisted (R100). -/
def execLh (bits : BitVec 26) (s : State) : Result := .next (s.unlisted (encode (.lh bits)) .lh)

/-- LWL, Unlisted (R100). -/
def execLwl (bits : BitVec 26) (s : State) : Result := .next (s.unlisted (encode (.lwl bits)) .lwl)

/-- LWR, Unlisted (R100). -/
def execLwr (bits : BitVec 26) (s : State) : Result := .next (s.unlisted (encode (.lwr bits)) .lwr)

/-- SWL, Unlisted (R100). -/
def execSwl (bits : BitVec 26) (s : State) : Result := .next (s.unlisted (encode (.swl bits)) .swl)

/-- SWR, Unlisted (R100). -/
def execSwr (bits : BitVec 26) (s : State) : Result := .next (s.unlisted (encode (.swr bits)) .swr)

/-- LWC0, Unlisted (R100). -/
def execLwc0 (bits : BitVec 26) (s : State) : Result := .next (s.unlisted (encode (.lwc0 bits)) .lwc0)

/-- LWC1, Unlisted (R100). -/
def execLwc1 (bits : BitVec 26) (s : State) : Result := .next (s.unlisted (encode (.lwc1 bits)) .lwc1)

/-- LWC2, Unlisted (R100). -/
def execLwc2 (bits : BitVec 26) (s : State) : Result := .next (s.unlisted (encode (.lwc2 bits)) .lwc2)

/-- LWC3, Unlisted (R100). -/
def execLwc3 (bits : BitVec 26) (s : State) : Result := .next (s.unlisted (encode (.lwc3 bits)) .lwc3)

/-- SWC0, Unlisted (R100). -/
def execSwc0 (bits : BitVec 26) (s : State) : Result := .next (s.unlisted (encode (.swc0 bits)) .swc0)

/-- SWC1, Unlisted (R100). -/
def execSwc1 (bits : BitVec 26) (s : State) : Result := .next (s.unlisted (encode (.swc1 bits)) .swc1)

/-- SWC2, Unlisted (R100). -/
def execSwc2 (bits : BitVec 26) (s : State) : Result := .next (s.unlisted (encode (.swc2 bits)) .swc2)

/-- SWC3, Unlisted (R100). -/
def execSwc3 (bits : BitVec 26) (s : State) : Result := .next (s.unlisted (encode (.swc3 bits)) .swc3)

/-- SYSCALL, Unlisted (R100). -/
def execSyscall (bits : BitVec 20) (s : State) : Result := .next (s.unlisted (encode (.syscall bits)) .syscall)

/-- BREAK, Unlisted (R100). -/
def execBrk (bits : BitVec 20) (s : State) : Result := .next (s.unlisted (encode (.brk bits)) .brk)

/-- MFHI, Unlisted (R100). -/
def execMfhi (bits : BitVec 20) (s : State) : Result := .next (s.unlisted (encode (.mfhi bits)) .mfhi)

/-- MTHI, Unlisted (R100). -/
def execMthi (bits : BitVec 20) (s : State) : Result := .next (s.unlisted (encode (.mthi bits)) .mthi)

/-- MFLO, Unlisted (R100). -/
def execMflo (bits : BitVec 20) (s : State) : Result := .next (s.unlisted (encode (.mflo bits)) .mflo)

/-- MTLO, Unlisted (R100). -/
def execMtlo (bits : BitVec 20) (s : State) : Result := .next (s.unlisted (encode (.mtlo bits)) .mtlo)

/-- MULT, Unlisted (R100). -/
def execMult (bits : BitVec 20) (s : State) : Result := .next (s.unlisted (encode (.mult bits)) .mult)

/-- MULTU, Unlisted (R100). -/
def execMultu (bits : BitVec 20) (s : State) : Result := .next (s.unlisted (encode (.multu bits)) .multu)

/-- DIV, Unlisted (R100). -/
def execDiv (bits : BitVec 20) (s : State) : Result := .next (s.unlisted (encode (.div bits)) .div)

/-- DIVU, Unlisted (R100). -/
def execDivu (bits : BitVec 20) (s : State) : Result := .next (s.unlisted (encode (.divu bits)) .divu)

/-- SUB, Unlisted (R100). -/
def execSub (bits : BitVec 20) (s : State) : Result := .next (s.unlisted (encode (.sub bits)) .sub)

/-- SUBU, Unlisted (R100). -/
def execSubu (bits : BitVec 20) (s : State) : Result := .next (s.unlisted (encode (.subu bits)) .subu)

/-- NOR, Unlisted (R100). -/
def execNor (bits : BitVec 20) (s : State) : Result := .next (s.unlisted (encode (.nor bits)) .nor)

/-- SLT, Unlisted (R100). -/
def execSlt (bits : BitVec 20) (s : State) : Result := .next (s.unlisted (encode (.slt bits)) .slt)

/-- SLTU, Unlisted (R100). -/
def execSltu (bits : BitVec 20) (s : State) : Result := .next (s.unlisted (encode (.sltu bits)) .sltu)

/-- CFC0, Unlisted (R100). -/
def execCfc0 (bits : BitVec 21) (s : State) : Result := .next (s.unlisted (encode (.cfc0 bits)) .cfc0)

/-- CTC0, Unlisted (R100). -/
def execCtc0 (bits : BitVec 21) (s : State) : Result := .next (s.unlisted (encode (.ctc0 bits)) .ctc0)

/-- BC0, Unlisted (R100). -/
def execBc0 (bits : BitVec 21) (s : State) : Result := .next (s.unlisted (encode (.bc0 bits)) .bc0)

/-- COP0 operation, Unlisted (R100). -/
def execCop0Operation (bits : BitVec 25) (s : State) : Result := .next (s.unlisted (encode (.cop0Operation bits)) .cop0Operation)

end Sys2Proof.Machine
end

