-- ==== Sys2Proof/Machine/Dispatch.lean ====
section
/-! DEFINITION. Dispatch: one arm per instruction, each a direct call of its meaning. -/

namespace Sys2Proof.Machine

def exec (i : Instr) (s : State) : Host.Outcome State Fault Refusal :=
  match i with
  | .add rd rs rt sa => Sys2Proof.Machine.execAdd rd rs rt sa s
  | .addu rd rs rt _ => Sys2Proof.Machine.execAddu rd rs rt s
  | .addi rt rs imm => Sys2Proof.Machine.execAddi rt rs imm s
  | .addiu rt rs imm => Sys2Proof.Machine.execAddiu rt rs imm s
  | .and rd rs rt _ => Sys2Proof.Machine.execAnd rd rs rt s
  | .or rd rs rt _ => Sys2Proof.Machine.execOr rd rs rt s
  | .xor rd rs rt _ => Sys2Proof.Machine.execXor rd rs rt s
  | .andi rt rs imm => Sys2Proof.Machine.execAndi rt rs imm s
  | .ori rt rs imm => Sys2Proof.Machine.execOri rt rs imm s
  | .sll rd rt shamt _ => Sys2Proof.Machine.execSll rd rt shamt s
  | .srl rd rt shamt _ => Sys2Proof.Machine.execSrl rd rt shamt s
  | .sra rd rt shamt _ => Sys2Proof.Machine.execSra rd rt shamt s
  | .sllv rd rt rs _ => Sys2Proof.Machine.execSllv rd rt rs s
  | .srlv rd rt rs _ => Sys2Proof.Machine.execSrlv rd rt rs s
  | .srav rd rt rs _ => Sys2Proof.Machine.execSrav rd rt rs s
  | .lui rt imm _ => Sys2Proof.Machine.execLui rt imm s
  | .lb rt rs imm => Sys2Proof.Machine.execLb rt rs imm s
  | .lbu rt rs imm => Sys2Proof.Machine.execLbu rt rs imm s
  | .lhu rt rs imm => Sys2Proof.Machine.execLhu rt rs imm s
  | .lw rt rs imm => Sys2Proof.Machine.execLw rt rs imm s
  | .sb rt rs imm => Sys2Proof.Machine.execSb rt rs imm s
  | .sh rt rs imm => Sys2Proof.Machine.execSh rt rs imm s
  | .sw rt rs imm => Sys2Proof.Machine.execSw rt rs imm s
  | .j target => Sys2Proof.Machine.execJ target s
  | .jal target => Sys2Proof.Machine.execJal target s
  | .jr rs _ _ _ => Sys2Proof.Machine.execJr rs s
  | .jalr rd rs _ _ => Sys2Proof.Machine.execJalr rd rs s
  | .beq rs rt imm => Sys2Proof.Machine.execBeq rs rt imm s
  | .bne rs rt imm => Sys2Proof.Machine.execBne rs rt imm s
  | .blez rs imm _ => Sys2Proof.Machine.execBlez rs imm s
  | .bgtz rs imm _ => Sys2Proof.Machine.execBgtz rs imm s
  | .bltz rs imm => Sys2Proof.Machine.execBltz rs imm s
  | .bgez rs imm => Sys2Proof.Machine.execBgez rs imm s
  | .bltzal rs imm => Sys2Proof.Machine.execBltzal rs imm s
  | .bgezal rs imm => Sys2Proof.Machine.execBgezal rs imm s
  | .mfc0 rt rd _ => Sys2Proof.Machine.execMfc0 rt rd s
  | .mtc0 rt rd low => Sys2Proof.Machine.execMtc0 rt rd low s
  | .slti bits => Sys2Proof.Machine.execSlti bits s
  | .sltiu bits => Sys2Proof.Machine.execSltiu bits s
  | .xori bits => Sys2Proof.Machine.execXori bits s
  | .cop1 bits => Sys2Proof.Machine.execCop1 bits s
  | .cop2 bits => Sys2Proof.Machine.execCop2 bits s
  | .cop3 bits => Sys2Proof.Machine.execCop3 bits s
  | .lh bits => Sys2Proof.Machine.execLh bits s
  | .lwl bits => Sys2Proof.Machine.execLwl bits s
  | .lwr bits => Sys2Proof.Machine.execLwr bits s
  | .swl bits => Sys2Proof.Machine.execSwl bits s
  | .swr bits => Sys2Proof.Machine.execSwr bits s
  | .lwc0 bits => Sys2Proof.Machine.execLwc0 bits s
  | .lwc1 bits => Sys2Proof.Machine.execLwc1 bits s
  | .lwc2 bits => Sys2Proof.Machine.execLwc2 bits s
  | .lwc3 bits => Sys2Proof.Machine.execLwc3 bits s
  | .swc0 bits => Sys2Proof.Machine.execSwc0 bits s
  | .swc1 bits => Sys2Proof.Machine.execSwc1 bits s
  | .swc2 bits => Sys2Proof.Machine.execSwc2 bits s
  | .swc3 bits => Sys2Proof.Machine.execSwc3 bits s
  | .syscall bits => Sys2Proof.Machine.execSyscall bits s
  | .brk bits => Sys2Proof.Machine.execBrk bits s
  | .mfhi bits => Sys2Proof.Machine.execMfhi bits s
  | .mthi bits => Sys2Proof.Machine.execMthi bits s
  | .mflo bits => Sys2Proof.Machine.execMflo bits s
  | .mtlo bits => Sys2Proof.Machine.execMtlo bits s
  | .mult bits => Sys2Proof.Machine.execMult bits s
  | .multu bits => Sys2Proof.Machine.execMultu bits s
  | .div bits => Sys2Proof.Machine.execDiv bits s
  | .divu bits => Sys2Proof.Machine.execDivu bits s
  | .sub bits => Sys2Proof.Machine.execSub bits s
  | .subu bits => Sys2Proof.Machine.execSubu bits s
  | .nor bits => Sys2Proof.Machine.execNor bits s
  | .slt bits => Sys2Proof.Machine.execSlt bits s
  | .sltu bits => Sys2Proof.Machine.execSltu bits s
  | .cfc0 bits => Sys2Proof.Machine.execCfc0 bits s
  | .ctc0 bits => Sys2Proof.Machine.execCtc0 bits s
  | .bc0 bits => Sys2Proof.Machine.execBc0 bits s
  | .cop0Operation bits => Sys2Proof.Machine.execCop0Operation bits s

end Sys2Proof.Machine
end

