-- ==== Sys2Proof/Machine/Step.lean ====
section
/-! DEFINITION. One step: fetch, advance the pc, decode, execute, commit (R120, R121 of spec/). -/

namespace Sys2Proof.Machine

/-- Decode and execute a fetched word, the pc already advanced, and end the step (R94, R101, R120). -/
def runWord (w : Word) (s : State) : Host.Outcome State Fault Refusal :=
  match decode w with
  | .error _ => .next (s.raiseDecode w)
  | .ok i => finishResult (exec i s)

/-- The step. It is enabled exactly when `halt = running` (R121). -/
def step (s : State) : Host.Outcome State Fault Refusal :=
  match s.halt with
  | .faulted _ => .fault .notRunning
  | .refused _ => .fault .notRunning
  | .running =>
    match s.fetch with
    | .error c => .next (s.raiseFetch c)
    | .ok w => runWord w s.advancePc

/-- `s` with the word of an instruction of `nbits` bits placed where `step` fetches next (log 7). -/
def State.withFetchWord (s : State) (nbits w : Nat) : State := s.placeAtPc (BitVec.ofNat 32 (w % 2 ^ nbits))

end Sys2Proof.Machine
end

