-- ==== Sys2Proof/Machine/HostPort.lean ====
section
/-! DEFINITION. The host interface (R39, R312, R313, R340, R341 of spec/): construction, the snapshot, breakpoints and the
replacement of a backing store. None of it is part of a step. -/

namespace Sys2Proof.Machine

/-- What a core is built from, each parameter of its type (R7, R340). No zero `SENTINEL` (D11) and no `RAM_INIT` of another
length than RAM's is a parameter at all. The length of `BIOS_IMAGE` is checked by construction (R341). -/
structure Params where
  sentinel : Word
  /-- `SENTINEL` is nonzero (R7). -/
  sentinel_ne_zero : sentinel ≠ 0#32
  statusReset : Word
  biosEntry : Word
  biosImage : List Byte
  ramInit : List Byte
  /-- `RAM_INIT` is 0x200000 bytes (R7). -/
  ramInit_length : ramInit.length = ramSize
  config : Config
  deriving DecidableEq, Repr

/-- Construction, the only reset (R340): SizeMismatch, and no core, unless the BIOS image has exactly its size (R341). -/
def construct (p : Params) : Except Condition State :=
  if p.biosImage.length = biosSize then
    .ok {
      gpr := Vector.replicate 31 p.sentinel
      pc := p.biosEntry
      cop0 := (Vector.replicate 32 p.sentinel).setIfInBounds statusIndex.toNat p.statusReset
      lq0 := none, lq1 := none, bq0 := none, bq1 := none
      ram := Memory.ofBytes p.ramInit
      bios := Memory.ofBytes p.biosImage
      halt := .running
      config := p.config }
  else .error (.sizeMismatch p.biosImage.length)

/-- The parameters `State.reset` is built from: the spec's defaults, and the log's values where it leaves them open. -/
def resetParams : Params where
  sentinel := sentinel
  sentinel_ne_zero := by decide
  statusReset := statusReset
  biosEntry := biosEntry
  biosImage := List.replicate biosSize Memory.blank
  ramInit := List.replicate ramSize Memory.blank
  ramInit_length := List.length_replicate
  config := defaultConfig

/-- What a host may read between steps (R39): `get(0..31)` and `pc`, and `cop0` and `halt`. -/
structure Snapshot where
  regs : List Word
  pc : Word
  cop0 : List Word
  halt : Halt
  deriving DecidableEq, Repr

/-- The 32 register indices, in order. -/
def allIndices : List RegIndex := (List.range 32).map (BitVec.ofNat 5)

/-- The snapshot. Reading it changes nothing (R39). -/
def State.snapshot (s : State) : Snapshot where
  regs := allIndices.map s.getReg
  pc := s.pc
  cop0 := allIndices.map s.getControl
  halt := s.halt

/-- What the host's run loop does at a step boundary (R312). -/
inductive Turn where
  /-- Pause, with the snapshot for the inspection hook: the state is untouched. -/
  | pause (view : Snapshot)
  /-- Call the step. -/
  | stepped (outcome : Result)
  deriving Repr

/-- One turn of the run loop, with the breakpoint set as its configuration. After a pause the host resumes, which is calling
the step (R312). -/
def runLoopTurn (breakpoints : List Word) (resuming : Bool) (s : State) : Turn :=
  if breakpoints.contains s.pc && !resuming then .pause s.snapshot else .stepped (step s)

/-- The host replaces RAM wholesale between steps (R34, R313; log 9). -/
def State.replaceRam (s : State) (bs : List Byte) : State := { s with ram := Memory.ofBytes (bs.take ramSize) }

/-- The host replaces the BIOS wholesale between steps (R34, R313; log 9). -/
def State.replaceBios (s : State) (bs : List Byte) : State := { s with bios := Memory.ofBytes (bs.take biosSize) }

end Sys2Proof.Machine
end

