-- ==== Sys2Proof/Safety.lean ====
section
/-! DEFINITION. The terms claims use: a step that completes, the invariant between steps, what an instruction may change, and
which registers each instruction reaches. A faulted or refused state is never a successful end (R302, R307). -/

namespace Sys2Proof.Machine

/-- A step was taken and did not end the run (R13, R301, R307). -/
def StepCompletes (s t : State) : Prop := step s = .next t ∧ t.halt = .running

/-- `i` is the instruction the next step of `s` executes: the step is enabled, and the fetched word decodes to `i`. -/
def State.Runs (s : State) (i : Instr) : Prop := s.halt = .running ∧ ∃ w, s.fetch = .ok w ∧ decode w = .ok i

/-- The invariant at step boundaries: both stores are canonical and inside their sizes (R34), and position 1 of both queues is
empty (R132). -/
abbrev State.Inv (s : State) : Prop :=
  Memory.wf s.ram = true ∧ Memory.fits ramSize s.ram = true ∧ Memory.wf s.bios = true ∧ Memory.fits biosSize s.bios = true ∧
    s.lq1 = none ∧ s.bq1 = none

/-- Every cop0 register reads as before. -/
def KeepsControls (s t : State) : Prop := ∀ q : RegIndex, t.getControl q = s.getControl q

/-- Every GPR reads as before. -/
def KeepsRegs (s t : State) : Prop := ∀ q : RegIndex, t.getReg q = s.getReg q

/-- Every byte of RAM and of the BIOS reads as before. -/
def KeepsMemory (s t : State) : Prop :=
  ∀ off : Nat, Memory.read t.ram off = Memory.read s.ram off ∧ Memory.read t.bios off = Memory.read s.bios off

/-- Both queues are as before. -/
def KeepsQueues (s t : State) : Prop := t.lq0 = s.lq0 ∧ t.lq1 = s.lq1 ∧ t.bq0 = s.bq0 ∧ t.bq1 = s.bq1

/-- The pc, the halt state and the parameters are as before. In the execute phase no instruction writes the pc (R122). -/
def KeepsControl (s t : State) : Prop := t.pc = s.pc ∧ t.halt = s.halt ∧ t.config = s.config

/-- What register `q`, holding `old`, reads after a direct write (r0 discards it: R22). -/
def afterDirect (direct : Option (RegIndex × Word)) (q : RegIndex) (old : Word) : Word :=
  match direct with
  | some (r, v) => if q = r then (if r = 0#5 then 0#32 else v) else old
  | none => old

/-- What the imminent load slot is after a direct write: dropped exactly when it targets the written register (R127). -/
def slotAfterDirect (direct : Option (RegIndex × Word)) (slot : Option LoadSlot) : Option LoadSlot :=
  match direct with
  | some (r, _) => slot.filter (fun l => l.reg ≠ r)
  | none => slot

/-- The whole effect of an instruction that touches neither cop0 nor memory, in the effect-value view (R124): at most one direct
register write, one scheduled load and one scheduled branch; everything else is unchanged. -/
def Effect (s t : State) (direct : Option (RegIndex × Word)) (load : Option LoadSlot) (branch : Option BranchSlot) : Prop :=
  (∀ q : RegIndex, t.getReg q = afterDirect direct q (s.getReg q)) ∧
    t.lq0 = slotAfterDirect direct s.lq0 ∧ t.lq1 = load.or s.lq1 ∧ t.bq0 = s.bq0 ∧ t.bq1 = branch.or s.bq1 ∧
    KeepsControls s t ∧ KeepsMemory s t ∧ KeepsControl s t

/-- The whole effect of a store of `n` bytes at RAM offset `off`: byte `j` stored is bits `8j+7..8j` of the value, and every other
byte and all other state are unchanged (R58, R68, R206). -/
def StoreEffect (s t : State) (off n : Nat) (v : Word) : Prop :=
  (∀ j : Nat, j < n → Memory.read t.ram (off + j) = v.extractLsb' (8 * j) 8) ∧
    (∀ k : Nat, k < off ∨ off + n ≤ k → Memory.read t.ram k = Memory.read s.ram k) ∧
    (∀ k : Nat, Memory.read t.bios k = Memory.read s.bios k) ∧
    KeepsRegs s t ∧ KeepsControls s t ∧ KeepsQueues s t ∧ KeepsControl s t

end Sys2Proof.Machine

namespace Sys2Proof

open Machine

/-- The register an instruction writes directly (R24). -/
def Instr.directDest : Instr → Option RegIndex
  | .add rd _ _ _ => some rd
  | .addu rd _ _ _ => some rd
  | .addi rt _ _ => some rt
  | .addiu rt _ _ => some rt
  | .and rd _ _ _ => some rd
  | .or rd _ _ _ => some rd
  | .xor rd _ _ _ => some rd
  | .andi rt _ _ => some rt
  | .ori rt _ _ => some rt
  | .sll rd _ _ _ => some rd
  | .srl rd _ _ _ => some rd
  | .sra rd _ _ _ => some rd
  | .sllv rd _ _ _ => some rd
  | .srlv rd _ _ _ => some rd
  | .srav rd _ _ _ => some rd
  | .lui rt _ _ => some rt
  | .lb _ _ _ => none
  | .lbu _ _ _ => none
  | .lhu _ _ _ => none
  | .lw _ _ _ => none
  | .sb _ _ _ => none
  | .sh _ _ _ => none
  | .sw _ _ _ => none
  | .j _ => none
  | .jal _ => some 31#5
  | .jr _ _ _ _ => none
  | .jalr rd _ _ _ => some rd
  | .beq _ _ _ => none
  | .bne _ _ _ => none
  | .blez _ _ _ => none
  | .bgtz _ _ _ => none
  | .bltz _ _ => none
  | .bgez _ _ => none
  | .bltzal _ _ => some 31#5
  | .bgezal _ _ => some 31#5
  | .mfc0 _ _ _ => none
  | .mtc0 _ _ _ => none
  | .slti _ => none
  | .sltiu _ => none
  | .xori _ => none
  | .cop1 _ => none
  | .cop2 _ => none
  | .cop3 _ => none
  | .lh _ => none
  | .lwl _ => none
  | .lwr _ => none
  | .swl _ => none
  | .swr _ => none
  | .lwc0 _ => none
  | .lwc1 _ => none
  | .lwc2 _ => none
  | .lwc3 _ => none
  | .swc0 _ => none
  | .swc1 _ => none
  | .swc2 _ => none
  | .swc3 _ => none
  | .syscall _ => none
  | .brk _ => none
  | .mfhi _ => none
  | .mthi _ => none
  | .mflo _ => none
  | .mtlo _ => none
  | .mult _ => none
  | .multu _ => none
  | .div _ => none
  | .divu _ => none
  | .sub _ => none
  | .subu _ => none
  | .nor _ => none
  | .slt _ => none
  | .sltu _ => none
  | .cfc0 _ => none
  | .ctc0 _ => none
  | .bc0 _ => none
  | .cop0Operation _ => none

/-- The register an instruction writes through the load queue (R24). -/
def Instr.delayedDest : Instr → Option RegIndex
  | .add _ _ _ _ => none
  | .addu _ _ _ _ => none
  | .addi _ _ _ => none
  | .addiu _ _ _ => none
  | .and _ _ _ _ => none
  | .or _ _ _ _ => none
  | .xor _ _ _ _ => none
  | .andi _ _ _ => none
  | .ori _ _ _ => none
  | .sll _ _ _ _ => none
  | .srl _ _ _ _ => none
  | .sra _ _ _ _ => none
  | .sllv _ _ _ _ => none
  | .srlv _ _ _ _ => none
  | .srav _ _ _ _ => none
  | .lui _ _ _ => none
  | .lb rt _ _ => some rt
  | .lbu rt _ _ => some rt
  | .lhu rt _ _ => some rt
  | .lw rt _ _ => some rt
  | .sb _ _ _ => none
  | .sh _ _ _ => none
  | .sw _ _ _ => none
  | .j _ => none
  | .jal _ => none
  | .jr _ _ _ _ => none
  | .jalr _ _ _ _ => none
  | .beq _ _ _ => none
  | .bne _ _ _ => none
  | .blez _ _ _ => none
  | .bgtz _ _ _ => none
  | .bltz _ _ => none
  | .bgez _ _ => none
  | .bltzal _ _ => none
  | .bgezal _ _ => none
  | .mfc0 rt _ _ => some rt
  | .mtc0 _ _ _ => none
  | .slti _ => none
  | .sltiu _ => none
  | .xori _ => none
  | .cop1 _ => none
  | .cop2 _ => none
  | .cop3 _ => none
  | .lh _ => none
  | .lwl _ => none
  | .lwr _ => none
  | .swl _ => none
  | .swr _ => none
  | .lwc0 _ => none
  | .lwc1 _ => none
  | .lwc2 _ => none
  | .lwc3 _ => none
  | .swc0 _ => none
  | .swc1 _ => none
  | .swc2 _ => none
  | .swc3 _ => none
  | .syscall _ => none
  | .brk _ => none
  | .mfhi _ => none
  | .mthi _ => none
  | .mflo _ => none
  | .mtlo _ => none
  | .mult _ => none
  | .multu _ => none
  | .div _ => none
  | .divu _ => none
  | .sub _ => none
  | .subu _ => none
  | .nor _ => none
  | .slt _ => none
  | .sltu _ => none
  | .cfc0 _ => none
  | .ctc0 _ => none
  | .bc0 _ => none
  | .cop0Operation _ => none

/-- The target an instruction schedules in the state it executes in: the four jumps always, the eight branches exactly when
taken, no other instruction ever (R126, R233 to R244). -/
def Instr.scheduledTarget (s : State) : Instr → Option Word
  | .add _ _ _ _ => none
  | .addu _ _ _ _ => none
  | .addi _ _ _ => none
  | .addiu _ _ _ => none
  | .and _ _ _ _ => none
  | .or _ _ _ _ => none
  | .xor _ _ _ _ => none
  | .andi _ _ _ => none
  | .ori _ _ _ => none
  | .sll _ _ _ _ => none
  | .srl _ _ _ _ => none
  | .sra _ _ _ _ => none
  | .sllv _ _ _ _ => none
  | .srlv _ _ _ _ => none
  | .srav _ _ _ _ => none
  | .lui _ _ _ => none
  | .lb _ _ _ => none
  | .lbu _ _ _ => none
  | .lhu _ _ _ => none
  | .lw _ _ _ => none
  | .sb _ _ _ => none
  | .sh _ _ _ => none
  | .sw _ _ _ => none
  | .j target => some (jumpTarget s target)
  | .jal target => some (jumpTarget s target)
  | .jr rs _ _ _ => some (s.getReg rs)
  | .jalr _ rs _ _ => some (s.getReg rs)
  | .beq rs rt imm => if s.getReg rs = s.getReg rt then some (branchTarget s imm) else none
  | .bne rs rt imm => if s.getReg rs = s.getReg rt then none else some (branchTarget s imm)
  | .blez rs imm _ => if (s.getReg rs).toInt ≤ 0 then some (branchTarget s imm) else none
  | .bgtz rs imm _ => if 0 < (s.getReg rs).toInt then some (branchTarget s imm) else none
  | .bltz rs imm => if (s.getReg rs).toInt < 0 then some (branchTarget s imm) else none
  | .bgez rs imm => if 0 ≤ (s.getReg rs).toInt then some (branchTarget s imm) else none
  | .bltzal rs imm => if (s.getReg rs).toInt < 0 then some (branchTarget s imm) else none
  | .bgezal rs imm => if 0 ≤ (s.getReg rs).toInt then some (branchTarget s imm) else none
  | .mfc0 _ _ _ => none
  | .mtc0 _ _ _ => none
  | .slti _ => none
  | .sltiu _ => none
  | .xori _ => none
  | .cop1 _ => none
  | .cop2 _ => none
  | .cop3 _ => none
  | .lh _ => none
  | .lwl _ => none
  | .lwr _ => none
  | .swl _ => none
  | .swr _ => none
  | .lwc0 _ => none
  | .lwc1 _ => none
  | .lwc2 _ => none
  | .lwc3 _ => none
  | .swc0 _ => none
  | .swc1 _ => none
  | .swc2 _ => none
  | .swc3 _ => none
  | .syscall _ => none
  | .brk _ => none
  | .mfhi _ => none
  | .mthi _ => none
  | .mflo _ => none
  | .mtlo _ => none
  | .mult _ => none
  | .multu _ => none
  | .div _ => none
  | .divu _ => none
  | .sub _ => none
  | .subu _ => none
  | .nor _ => none
  | .slt _ => none
  | .sltu _ => none
  | .cfc0 _ => none
  | .ctc0 _ => none
  | .bc0 _ => none
  | .cop0Operation _ => none

/-- The name of an Unlisted instruction (R100); none for the 37 admitted ones (R2). -/
def Instr.unlistedName : Instr → Option UnlistedName
  | .add _ _ _ _ => none
  | .addu _ _ _ _ => none
  | .addi _ _ _ => none
  | .addiu _ _ _ => none
  | .and _ _ _ _ => none
  | .or _ _ _ _ => none
  | .xor _ _ _ _ => none
  | .andi _ _ _ => none
  | .ori _ _ _ => none
  | .sll _ _ _ _ => none
  | .srl _ _ _ _ => none
  | .sra _ _ _ _ => none
  | .sllv _ _ _ _ => none
  | .srlv _ _ _ _ => none
  | .srav _ _ _ _ => none
  | .lui _ _ _ => none
  | .lb _ _ _ => none
  | .lbu _ _ _ => none
  | .lhu _ _ _ => none
  | .lw _ _ _ => none
  | .sb _ _ _ => none
  | .sh _ _ _ => none
  | .sw _ _ _ => none
  | .j _ => none
  | .jal _ => none
  | .jr _ _ _ _ => none
  | .jalr _ _ _ _ => none
  | .beq _ _ _ => none
  | .bne _ _ _ => none
  | .blez _ _ _ => none
  | .bgtz _ _ _ => none
  | .bltz _ _ => none
  | .bgez _ _ => none
  | .bltzal _ _ => none
  | .bgezal _ _ => none
  | .mfc0 _ _ _ => none
  | .mtc0 _ _ _ => none
  | .slti _ => some .slti
  | .sltiu _ => some .sltiu
  | .xori _ => some .xori
  | .cop1 _ => some .cop1
  | .cop2 _ => some .cop2
  | .cop3 _ => some .cop3
  | .lh _ => some .lh
  | .lwl _ => some .lwl
  | .lwr _ => some .lwr
  | .swl _ => some .swl
  | .swr _ => some .swr
  | .lwc0 _ => some .lwc0
  | .lwc1 _ => some .lwc1
  | .lwc2 _ => some .lwc2
  | .lwc3 _ => some .lwc3
  | .swc0 _ => some .swc0
  | .swc1 _ => some .swc1
  | .swc2 _ => some .swc2
  | .swc3 _ => some .swc3
  | .syscall _ => some .syscall
  | .brk _ => some .brk
  | .mfhi _ => some .mfhi
  | .mthi _ => some .mthi
  | .mflo _ => some .mflo
  | .mtlo _ => some .mtlo
  | .mult _ => some .mult
  | .multu _ => some .multu
  | .div _ => some .div
  | .divu _ => some .divu
  | .sub _ => some .sub
  | .subu _ => some .subu
  | .nor _ => some .nor
  | .slt _ => some .slt
  | .sltu _ => some .sltu
  | .cfc0 _ => some .cfc0
  | .ctc0 _ => some .ctc0
  | .bc0 _ => some .bc0
  | .cop0Operation _ => some .cop0Operation

end Sys2Proof
end

