-- ==== Sys2Proof/Certificates/Slice0/Obligations.lean ====
section
/-! DEFINITION. The statements for the provers. Each docstring names the rules of spec/ it formalises. In the execute phase the pc
holds `A + 4` (R25), so `A` is `s.pc - 4` in a statement about `exec` and `s.pc` in one about `step`. -/

open Sys2Proof Sys2Proof.Machine

/-! ### Encoding and decoder -/

/-- R91 to R98: decoding the word of an instruction gives it back, every operand and every ignored field at every value. That
an instruction carries its ignored fields is the model's choice (log 8). Rests on the spec's own decisions D3, D4, D5, D6, D8,
D9, D17 (log 6). -/
def Obligations.EncodeThenDecode : Prop := ∀ i : Instr, decode (encode i) = .ok i

/-- R91, R94: no bit of a decoded word is lost. That an instruction carries its ignored bits, and so determines its word, is the
model's choice (log 8, DEDUCED). -/
def Obligations.DecodeThenEncode : Prop := ∀ (w : Word) (i : Instr), decode w = .ok i → encode i = w

/-- R99: every word that carries a row's fixed bits decodes to that row's instruction, whatever its other bits are. Rests on the
spec's own decisions D7 (log 6). -/
def Obligations.RowWordsDecodeToTheirRow : Prop :=
  ∀ (w : Word) (i : Instr), w &&& i.rowMask = i.rowMatch →
    ∃ j : Instr, decode w = .ok j ∧ j.rowMask = i.rowMask ∧ j.rowMatch = i.rowMatch

/-- R95 to R98, R101: a word is rejected exactly when it carries the fixed bits of no row of the table. Rests on the spec's own
decisions D4, D5, D6, D8, D9 (log 6). -/
def Obligations.OnlyRowWordsDecode : Prop :=
  ∀ w : Word, (∃ e, decode w = .error e) ↔ ∀ i : Instr, w &&& i.rowMask ≠ i.rowMatch

/-- Words the spec writes out, one or more for each family. -/
def Obligations.SpecExampleWordsDecode : Prop :=
  decode 0x00221820#32 = .ok (.add 3 1 2 0) ∧ decode 0x2022FFFF#32 = .ok (.addi 2 1 0xFFFF) ∧
  decode 0x00221824#32 = .ok (.and 3 1 2 0) ∧ decode 0x00011103#32 = .ok (.sra 2 1 4 0) ∧
  decode 0x00411807#32 = .ok (.srav 3 1 2 0) ∧ decode 0x3C011234#32 = .ok (.lui 1 0x1234 0) ∧
  decode 0x94220002#32 = .ok (.lhu 2 1 2) ∧ decode 0xAC220004#32 = .ok (.sw 2 1 4) ∧
  decode 0x0BF00003#32 = .ok (.j 0x3F00003) ∧ decode 0x0080F809#32 = .ok (.jalr 31 4 0 0) ∧
  decode 0x04300003#32 = .ok (.bltzal 1 3) ∧ decode 0x40826800#32 = .ok (.mtc0 2 13 0) ∧
  decode 0x42000010#32 = .ok (.cop0Operation 0x10) ∧ decode 0x04020000#32 = .error (.emptyRegimm 2)

/-! ### Registers, queues and the step -/

/-- R20, R21, R22: r0 reads 0 and discards writes; every other register reads its own stored word, which is what was written
last. -/
def Obligations.RegisterFilePorts : Prop :=
  ∀ (s : State) (q r : RegIndex) (v : Word),
    s.getReg 0#5 = 0#32 ∧ (∀ k : Fin 31, s.getReg (BitVec.ofNat 5 (k.val + 1)) = s.gpr[k]) ∧ s.setReg 0#5 v = s ∧
      (r ≠ 0#5 → (s.setReg r v).getReg r = v) ∧
      (q ≠ r → (s.setReg r v).getReg q = s.getReg q)

/-- R128, R129, R130: CommitStep applies position 0 of each queue and shifts it; the order of its halves has no effect. -/
def Obligations.CommitStepMovesTheQueues : Prop :=
  ∀ s : State,
    (∀ q : RegIndex, s.commitStep.getReg q =
      match s.lq0 with
      | some l => if q = l.reg ∧ q ≠ 0#5 then l.value else s.getReg q
      | none => s.getReg q) ∧
    (s.commitStep.pc = match s.bq0 with
      | some b => b.target
      | none => s.pc) ∧
    s.commitStep.lq0 = s.lq1 ∧ s.commitStep.lq1 = none ∧ s.commitStep.bq0 = s.bq1 ∧ s.commitStep.bq1 = none ∧
    KeepsControls s s.commitStep ∧ KeepsMemory s s.commitStep ∧ s.commitStep.halt = s.halt ∧
    s.commitStep.config = s.config ∧ s.commitLoad.commitBranch = s.commitBranch.commitLoad

/-- R120: when the fetched word decodes to `i`, the step is `i` executed with the pc advanced, and then CommitStep unless the
instruction ended the run. -/
def Obligations.StepRunsTheDecodedInstruction : Prop :=
  ∀ (s : State) (w : Word) (i : Instr), s.halt = .running → s.memRead s.pc .word = .ok w → decode w = .ok i →
    step s = match exec i { s with pc := s.pc + 4#32 } with
      | .next t => .next (if t.halt = .running then t.commitStep else t)
      | .fault r => .fault r
      | .refused r => .refused r

/-- R35, R121: a step is enabled exactly when `halt = running`. How the two cases are answered is the model's choice (log 4, DESIGN
CHOICE): an enabled step, a faulting one included, answers a next state, and one that is not enabled answers the host's fault
`notRunning`. Rests on the spec's own decisions D27 (log 6). -/
def Obligations.StepEnabledExactlyWhenRunning : Prop :=
  ∀ s : State, (s.halt = .running → ∃ t, step s = .next t) ∧ (s.halt ≠ .running → step s = .fault .notRunning)

/-- R13, R123, R301, R302: faults are precise. The faulted state is the state at the start of the step but for `halt`, and for the
pc, which is `A + 4` when the fetch completed. Rests on the spec's own decisions D19, D27, D28 (log 6). -/
def Obligations.FaultsArePrecise : Prop :=
  ∀ (s t : State) (r : FaultRecord), step s = .next t → t.halt = .faulted r →
    r.address = s.pc ∧
    ((r.phase = .fetch ∧ r.word = none ∧ s.fetch = .error r.condition ∧ t = { s with halt := .faulted r }) ∨
      (r.phase ≠ .fetch ∧ (∃ w, s.fetch = .ok w ∧ r.word = some w) ∧
        t = { s with pc := s.pc + 4#32, halt := .faulted r }))

/-- R300, R303: which conditions each phase can raise, and the address a fetch reports. Rests on the spec's own decisions D27, D37
(log 6). -/
def Obligations.FaultConditionsByPhase : Prop :=
  ∀ (s t : State) (r : FaultRecord), step s = .next t → t.halt = .faulted r →
    match r.phase with
    | .fetch => r.condition = .addressNotMapped s.pc ∨ ∃ off, r.condition = .outOfBounds s.pc off 4
    | .decode => r.condition = .opcodeNotImplemented
    | .execute => r.condition = .arithmeticOverflow ∨ (∃ j v, r.condition = .controlRegisterWriteRejected j v) ∨
        (∃ a, r.condition = .addressNotMapped a) ∨ ∃ a off n, r.condition = .outOfBounds a off n

/-- R62: no step raises IllegalWrite. -/
def Obligations.IllegalWriteIsNeverRaised : Prop :=
  ∀ (s t : State) (r : FaultRecord), step s = .next t → t.halt = .faulted r → r.condition ≠ .illegalWrite

/-- R104, R307: a refusal happens only under `UNLISTED_POLICY = refuse`, on an Unlisted word, and only `halt` and the pc change.
Rests on the spec's own decisions D6 (log 6). -/
def Obligations.RefusalsAreUnlistedWords : Prop :=
  ∀ (s t : State) (r : RefusalRecord), step s = .next t → t.halt = .refused r →
    s.config.unlistedPolicy = .refuse ∧ s.fetch = .ok r.word ∧ r.address = s.pc ∧
    (∃ i : Instr, decode r.word = .ok i ∧ i.unlistedName = some r.mnemonic) ∧
    t = { s with pc := s.pc + 4#32, halt := .refused r }

/-- R104: an Unlisted word is refused under `refuse`, and no further step is enabled. That the host's fault `notRunning` is what
answers the further step is the model's choice (log 4, DESIGN CHOICE). Rests on the spec's own decisions D6 (log 6). -/
def Obligations.UnlistedWordsAreRefused : Prop :=
  ∀ (s : State) (w : Word) (i : Instr) (n : UnlistedName), s.halt = .running → s.fetch = .ok w → decode w = .ok i →
    i.unlistedName = some n → s.config.unlistedPolicy = .refuse →
    step s = .next { s with pc := s.pc + 4#32, halt := .refused ⟨s.pc, w, n⟩ } ∧
      step { s with pc := s.pc + 4#32, halt := .refused ⟨s.pc, w, n⟩ } = .fault .notRunning

/-- R101: an encoding with no handler raises OpcodeNotImplemented, after the fetch advanced the pc. -/
def Obligations.EmptyEntriesRaise : Prop :=
  ∀ (s : State) (w : Word) (e : DecodeReject), s.halt = .running → s.fetch = .ok w → decode w = .error e →
    step s = .next { s with pc := s.pc + 4#32, halt := .faulted ⟨.opcodeNotImplemented, .decode, s.pc, some w⟩ }

/-- R127, R129, R131, R344: a pending load lands at the end of the next completed step, unless that step's instruction writes the
same register directly: then the register holds what the instruction wrote. Rests on the spec's own decisions D15 (log 6). -/
def Obligations.LoadsLandOneStepLater : Prop :=
  ∀ (s t : State) (i : Instr) (l : LoadSlot), s.Runs i → StepCompletes s t → s.lq0 = some l →
    (i.directDest ≠ some l.reg → t.getReg l.reg = if l.reg = 0#5 then 0#32 else l.value) ∧
    (i.directDest = some l.reg →
      ∃ u, exec i { s with pc := s.pc + 4#32 } = .next u ∧ t.getReg l.reg = u.getReg l.reg)

/-- R25, R126, R130, R131, R246: a completed step fetches next at the target that was pending when it began, or in order if none
was. The target its own instruction schedules (of a taken branch or a jump: `Instr.scheduledTarget`) is then pending, and the next
completed step leaves the pc there, whatever its instruction is: a branch in the delay slot included. Rests on the spec's own decisions D4, D8, D17,
D19 (log 6). -/
def Obligations.BranchesLandOneStepLater : Prop :=
  ∀ (s t : State) (i : Instr), s.Runs i → StepCompletes s t →
    (t.pc = match s.bq0 with
      | some b => b.target
      | none => s.pc + 4#32) ∧
    (∀ target : Word, i.scheduledTarget { s with pc := s.pc + 4#32 } = some target →
      t.bq0 = some ⟨target⟩ ∧ ∀ u : State, StepCompletes t u → u.pc = target) ∧
    (i.scheduledTarget { s with pc := s.pc + 4#32 } = none → t.bq0 = s.bq1)

/-- R25, R122, R130: the step fetches at the pc, advances it by 4 and then commits the pending branch; no instruction writes the
pc. -/
def Obligations.OnlyTheStepWritesThePc : Prop :=
  (∀ (i : Instr) (s t : State), exec i s = .next t → t.pc = s.pc) ∧
  ∀ s t : State, step s = .next t → s.fetch = s.memRead s.pc .word ∧
    (∀ c, s.fetch = .error c → t.pc = s.pc) ∧
    (∀ w, s.fetch = .ok w → t.halt ≠ .running → t.pc = s.pc + 4#32) ∧
    (t.halt = .running → t.pc = match s.bq0 with
      | some b => b.target
      | none => s.pc + 4#32)

/-- R24: the registers a step reaches. A register neither written directly nor targeted by the imminent load reads as before; and
after a completed step the pending load is that of the step's own instruction, to its delayed destination. Rests on the spec's own
decisions D3, D15, D18 (log 6). -/
def Obligations.RegistersReachedByAStep : Prop :=
  ∀ (s t : State) (i : Instr), s.Runs i → StepCompletes s t →
    (∀ q : RegIndex, i.directDest ≠ some q → (∀ v, s.lq0 ≠ some ⟨q, v⟩) → t.getReg q = s.getReg q) ∧
    (s.lq1 = none → t.lq0.map LoadSlot.reg = i.delayedDest)

/-! ### Invariants and whole-machine rules -/

/-- R34, R132: a step keeps the invariant, from every state that meets it. -/
def Obligations.StepKeepsInvariant : Prop := ∀ s t : State, s.Inv → step s = .next t → t.Inv

/-- R38, R132: the reset state meets the invariant. Rests on the spec's own decisions D2, D11, D12, D13, D14, D39 (log 6). -/
def Obligations.ResetMeetsInvariant : Prop := State.reset.Inv

/-- R7, R38, R132, R340: every constructed core meets the invariant. A `RAM_INIT` of another length than RAM's is no parameter
(R7): `Params.ramInit_length`. Rests on the spec's own decisions D2, D11, D12, D13, D14, D39 (log 6). -/
def Obligations.ConstructionMeetsInvariant : Prop := ∀ (p : Params) (s : State), construct p = .ok s → s.Inv

/-- R34, R37: no step changes the BIOS or the parameters. That the parameters a step reads stand in the field `config` of State,
where R37 makes them no state of the core, is the model's choice (log 5, DESIGN CHOICE). -/
def Obligations.BiosAndParametersNeverChange : Prop :=
  ∀ s t : State, step s = .next t → t.bios = s.bios ∧ t.config = s.config

/-- R68, R122, R207: only SB, SH and SW change RAM, and with the cache-isolation bit set nothing does. Rests on the spec's own
decisions D10, D25, D26 (log 6). -/
def Obligations.OnlyUnisolatedStoresChangeRam : Prop :=
  ∀ s t : State, step s = .next t →
    (∀ i : Instr, s.Runs i → (∀ rt rs imm, i ≠ .sb rt rs imm ∧ i ≠ .sh rt rs imm ∧ i ≠ .sw rt rs imm) → t.ram = s.ram) ∧
    ((s.getControl 12#5).getLsbD 16 = true → t.ram = s.ram)

/-- R27, R29, R31: only MTC0 changes a cop0 register, and any one but the status register only to zero. Rests on the spec's own
decisions D10, D28, D40 (log 6). -/
def Obligations.ControlsChangeOnlyByMtc0 : Prop :=
  ∀ s t : State, step s = .next t →
    (∀ j : RegIndex, j ≠ 12#5 → t.getControl j = s.getControl j ∨ t.getControl j = 0#32) ∧
    (∀ i : Instr, s.Runs i → (∀ rt rd low, i ≠ .mtc0 rt rd low) → KeepsControls s t)

/-! ### Construction and reset -/

/-- R341: construction fails with SizeMismatch exactly when the BIOS image is not 0x80000 bytes long, and no step raises it. Every
other parameter has its type (R7): `Params` holds a nonzero `SENTINEL` and a `RAM_INIT` of 0x200000 bytes. -/
def Obligations.ConstructionChecksTheImage : Prop :=
  (∀ p : Params, (p.biosImage.length ≠ 0x80000 → construct p = .error (.sizeMismatch p.biosImage.length)) ∧
    (p.biosImage.length = 0x80000 → ∃ s, construct p = .ok s)) ∧
  ∀ (s t : State) (r : FaultRecord) (n : Nat), step s = .next t → t.halt = .faulted r → r.condition ≠ .sizeMismatch n

/-- R7, R38, R340: the state right after construction, for any parameters. The sentinel is not zero, and RAM is all of `RAM_INIT`.
That the state holds `config` is the model's choice (log 5). Rests on the spec's own decisions D2, D11, D12, D13, D14, D39
(log 6). -/
def Obligations.ConstructedState : Prop :=
  ∀ p : Params, p.biosImage.length = 0x80000 →
    ∃ s, construct p = .ok s ∧ p.sentinel ≠ 0#32 ∧ p.ramInit.length = 0x200000 ∧
      (∀ r : RegIndex, s.getReg r = if r = 0#5 then 0#32 else p.sentinel) ∧
      (∀ j : RegIndex, s.getControl j = if j = 12#5 then p.statusReset else p.sentinel) ∧
      s.pc = p.biosEntry ∧ s.lq0 = none ∧ s.lq1 = none ∧ s.bq0 = none ∧ s.bq1 = none ∧
      (∀ off, off < 0x200000 → p.ramInit[off]? = some (Memory.read s.ram off)) ∧
      (∀ off, off < 0x80000 → p.biosImage[off]? = some (Memory.read s.bios off)) ∧
      s.halt = .running ∧ s.config = p.config

/-- R7, R38, R52: the reset state at the spec's defaults. That `State.reset` takes the defaults of the policy and of the memory map
is the model's choice (log 2, DEDUCED), and so is the field `config` that holds them (log 5, DESIGN CHOICE). That the BIOS and RAM
read 0 and which nonzero word the sentinel is are its choices too (log 1, log 3): the statement says only that r1 to r31 and the
cop0 registers but 12 hold one nonzero word. Rests on the spec's own decisions D2, D6, D11, D12, D13, D14, D35, D39 (log 6). -/
def Obligations.ResetValues : Prop :=
  State.reset.pc = 0xBFC00000#32 ∧ State.reset.getControl 12#5 = 0#32 ∧ State.reset.getReg 0#5 = 0#32 ∧
  State.reset.lq0 = none ∧ State.reset.lq1 = none ∧ State.reset.bq0 = none ∧ State.reset.bq1 = none ∧
  State.reset.halt = .running ∧ State.reset.config.unlistedPolicy = .refuse ∧
  State.reset.config.memoryMap = defaultMemoryMap ∧
  ∃ sentinelWord : Word, sentinelWord ≠ 0#32 ∧ (∀ r : RegIndex, r ≠ 0#5 → State.reset.getReg r = sentinelWord) ∧
    ∀ j : RegIndex, j ≠ 12#5 → State.reset.getControl j = sentinelWord

/-- R340: the reset state is a construction, from an all-zero image and all-zero RAM (the model's choice, log 3). Rests on the
spec's own decisions D2, D39 (log 6). -/
def Obligations.ResetIsAConstruction : Prop := construct resetParams = .ok State.reset

/-! ### Memory -/

/-- R53: `resolve` answers the first window, upper bound included, and none when no window holds the address; the default map
lists the RAM windows first, then the BIOS, the hardware registers and the cache control. -/
def Obligations.ResolveIsFirstMatch : Prop :=
  ∀ (map : List Window) (a : Word),
    (∀ p : SegmentAndOffset, resolve map a = some p ↔
      ∃ before win after, map = before ++ win :: after ∧
        (∀ u ∈ before, ¬ (u.base ≤ a.toNat ∧ a.toNat ≤ u.base + u.size)) ∧
        win.base ≤ a.toNat ∧ a.toNat ≤ win.base + win.size ∧ p = ⟨win.segment, a.toNat - win.base⟩) ∧
    (resolve map a = none ↔ ∀ u ∈ map, ¬ (u.base ≤ a.toNat ∧ a.toNat ≤ u.base + u.size)) ∧
    defaultMemoryMap.map Window.segment =
      [.ram, .ram, .ram, .bios, .bios, .bios, .hwreg, .hwreg, .hwreg, .cachectl]

/-- R52, R55: the default map is the ten rows of R52, written out; each window answers for every address it covers, so the windows
are disjoint and the order never matters; and an address resolves to none exactly when it is outside the ten ranges of R52, written
out with their inclusive bounds. Rests on the spec's own decisions D35 (log 6). -/
def Obligations.DefaultWindowsAreDisjoint : Prop :=
  defaultMemoryMap =
    [⟨.ram, 0x00000000, 0x200000⟩, ⟨.ram, 0x80000000, 0x200000⟩, ⟨.ram, 0xA0000000, 0x200000⟩,
      ⟨.bios, 0x1FC00000, 0x80000⟩, ⟨.bios, 0x9FC00000, 0x80000⟩, ⟨.bios, 0xBFC00000, 0x80000⟩,
      ⟨.hwreg, 0x1F801000, 0x2000⟩, ⟨.hwreg, 0x9F801000, 0x2000⟩, ⟨.hwreg, 0xBF801000, 0x2000⟩,
      ⟨.cachectl, 0xFFFE0000, 0x200⟩] ∧
  (∀ win ∈ defaultMemoryMap, ∀ a : Word, win.base ≤ a.toNat → a.toNat ≤ win.base + win.size →
    resolve defaultMemoryMap a = some ⟨win.segment, a.toNat - win.base⟩) ∧
  ∀ a : Word, resolve defaultMemoryMap a = none ↔
    ¬ (a.toNat ≤ 0x00200000 ∨ (0x80000000 ≤ a.toNat ∧ a.toNat ≤ 0x80200000) ∨
      (0xA0000000 ≤ a.toNat ∧ a.toNat ≤ 0xA0200000) ∨ (0x1FC00000 ≤ a.toNat ∧ a.toNat ≤ 0x1FC80000) ∨
      (0x9FC00000 ≤ a.toNat ∧ a.toNat ≤ 0x9FC80000) ∨ (0xBFC00000 ≤ a.toNat ∧ a.toNat ≤ 0xBFC80000) ∨
      (0x1F801000 ≤ a.toNat ∧ a.toNat ≤ 0x1F803000) ∨ (0x9F801000 ≤ a.toNat ∧ a.toNat ≤ 0x9F803000) ∨
      (0xBF801000 ≤ a.toNat ∧ a.toNat ≤ 0xBF803000) ∨ (0xFFFE0000 ≤ a.toNat ∧ a.toNat ≤ 0xFFFE0200))

/-- R56: the windows of one segment are mirrors: the same offset, the same byte, and a word written through one is read back
through another. -/
def Obligations.MirrorsShareTheirStore : Prop :=
  ∀ (s : State) (win other : Window) (k : Nat) (v : Word), s.config.memoryMap = defaultMemoryMap →
    win ∈ defaultMemoryMap → other ∈ defaultMemoryMap → win.segment = other.segment → k ≤ win.size →
    resolve defaultMemoryMap (BitVec.ofNat 32 (win.base + k)) = some ⟨win.segment, k⟩ ∧
    resolve defaultMemoryMap (BitVec.ofNat 32 (other.base + k)) = some ⟨win.segment, k⟩ ∧
    (∀ (n : Width) (m : Word), s.memRead (BitVec.ofNat 32 (win.base + k)) n = .ok m →
      s.memRead (BitVec.ofNat 32 (other.base + k)) n = .ok m) ∧
    (win.segment = .ram → k + 4 ≤ 0x200000 → Memory.wf s.ram = true →
      ∃ t, s.memWrite (BitVec.ofNat 32 (win.base + k)) .word v = .ok t ∧
        t.memRead (BitVec.ofNat 32 (other.base + k)) .word = .ok v)

/-- R57: the typed read, by where the address resolves. The value is the little-endian sum of the bytes. Rests on the spec's own
decisions D1, D22, D23 (log 6). -/
def Obligations.TypedRead : Prop :=
  ∀ (s : State) (a : Word) (n : Width),
    (resolve s.config.memoryMap a = none → s.memRead a n = .error (.addressNotMapped a)) ∧
    (∀ off, resolve s.config.memoryMap a = some ⟨.hwreg, off⟩ ∨ resolve s.config.memoryMap a = some ⟨.cachectl, off⟩ →
      s.memRead a n = .ok 0#32) ∧
    (∀ off, resolve s.config.memoryMap a = some ⟨.ram, off⟩ →
      (0x200000 < off + widthBytes n → s.memRead a n = .error (.outOfBounds a off (widthBytes n))) ∧
      (off + widthBytes n ≤ 0x200000 → ∃ m, s.memRead a n = .ok m ∧
        m.toNat = ∑ j ∈ Finset.range (widthBytes n), (Memory.read s.ram (off + j)).toNat * 256 ^ j)) ∧
    (∀ off, resolve s.config.memoryMap a = some ⟨.bios, off⟩ →
      (0x80000 < off + widthBytes n → s.memRead a n = .error (.outOfBounds a off (widthBytes n))) ∧
      (off + widthBytes n ≤ 0x80000 → ∃ m, s.memRead a n = .ok m ∧
        m.toNat = ∑ j ∈ Finset.range (widthBytes n), (Memory.read s.bios (off + j)).toNat * 256 ^ j))

/-- R58: the typed write, by where the address resolves. A write that raises changes nothing: it answers no state. Rests on the
spec's own decisions D1, D22, D23, D24 (log 6). -/
def Obligations.TypedWrite : Prop :=
  ∀ (s : State) (a : Word) (n : Width) (v : Word), Memory.wf s.ram = true →
    (resolve s.config.memoryMap a = none → s.memWrite a n v = .error (.addressNotMapped a)) ∧
    (∀ p, resolve s.config.memoryMap a = some p → p.segment ≠ .ram → s.memWrite a n v = .ok s) ∧
    (∀ off, resolve s.config.memoryMap a = some ⟨.ram, off⟩ →
      (0x200000 < off + widthBytes n → s.memWrite a n v = .error (.outOfBounds a off (widthBytes n))) ∧
      (off + widthBytes n ≤ 0x200000 → ∃ t, s.memWrite a n v = .ok t ∧ StoreEffect s t off (widthBytes n) v))

/-- R54: an address in no window raises AddressNotMapped from every read, write and fetch. -/
def Obligations.UnmappedAccessRaises : Prop :=
  ∀ (s : State) (a : Word), (∀ u ∈ s.config.memoryMap, ¬ (u.base ≤ a.toNat ∧ a.toNat ≤ u.base + u.size)) →
    (∀ n, s.memRead a n = .error (.addressNotMapped a)) ∧
    (∀ n v, s.memWrite a n v = .error (.addressNotMapped a)) ∧
    (s.halt = .running → s.pc = a →
      step s = .next { s with halt := .faulted ⟨.addressNotMapped a, .fetch, a, none⟩ })

/-- R74, R353: a word stored to RAM is what the very next fetch reads there, through any window. Rests on the spec's own decisions
D21, D33 (log 6). -/
def Obligations.StoresAreSeenByTheNextFetch : Prop :=
  ∀ (s t : State) (rt rs : RegIndex) (imm : BitVec 16) (off : Nat), s.Runs (.sw rt rs imm) → StepCompletes s t →
    Memory.wf s.ram = true → (s.getControl 12#5).getLsbD 16 = false →
    resolve s.config.memoryMap (effectiveAddress s rs imm) = some ⟨.ram, off⟩ →
    resolve t.config.memoryMap t.pc = some ⟨.ram, off⟩ → t.fetch = .ok (s.getReg rt)

/-- R64: the mixed-width view of a word written to RAM. -/
def Obligations.MixedWidthView : Prop :=
  ∀ (s : State) (a : Word) (off : Nat), Memory.wf s.ram = true → off + 4 ≤ 0x200000 →
    resolve s.config.memoryMap a = some ⟨.ram, off⟩ → resolve s.config.memoryMap (a + 1#32) = some ⟨.ram, off + 1⟩ →
    resolve s.config.memoryMap (a + 2#32) = some ⟨.ram, off + 2⟩ →
    ∃ t, s.memWrite a .word 0x44332211#32 = .ok t ∧ t.memRead a .byte = .ok 0x11#32 ∧
      t.memRead (a + 1#32) .byte = .ok 0x22#32 ∧ t.memRead (a + 2#32) .half = .ok 0x4433#32 ∧
      t.memRead (a + 1#32) .half = .ok 0x3322#32

/-- R60: the inclusive upper bound together with the bounds check, in the default map. -/
def Obligations.RegionEdges : Prop :=
  ∀ (s : State) (win : Window) (k : Nat) (n : Width) (v : Word), s.config.memoryMap = defaultMemoryMap →
    win ∈ defaultMemoryMap → k ≤ win.size → win.size < k + widthBytes n →
    (win.segment = .ram ∨ win.segment = .bios →
      s.memRead (BitVec.ofNat 32 (win.base + k)) n =
        .error (.outOfBounds (BitVec.ofNat 32 (win.base + k)) k (widthBytes n))) ∧
    (win.segment = .ram → s.memWrite (BitVec.ofNat 32 (win.base + k)) n v =
        .error (.outOfBounds (BitVec.ofNat 32 (win.base + k)) k (widthBytes n))) ∧
    (win.segment = .bios → s.memWrite (BitVec.ofNat 32 (win.base + k)) n v = .ok s) ∧
    (win.segment = .hwreg ∨ win.segment = .cachectl →
      s.memRead (BitVec.ofNat 32 (win.base + k)) n = .ok 0#32 ∧
        s.memWrite (BitVec.ofNat 32 (win.base + k)) n v = .ok s)

/-- R200, R230, R231, R232: addresses, targets and the link as numbers. In the execute phase `A + 4` is `s.pc`. Rests on the
spec's own decisions D15, D17, D18, D20 (log 6). -/
def Obligations.AddressesAndTargets : Prop :=
  ∀ (s : State) (rs : RegIndex) (imm : BitVec 16) (target : BitVec 26),
    ((effectiveAddress s rs imm).toNat : Int) = ((s.getReg rs).toNat + imm.toInt) % 4294967296 ∧
    ((branchTarget s imm).toNat : Int) = (s.pc.toNat + 4 * imm.toInt) % 4294967296 ∧
    (jumpTarget s target).toNat = s.pc.toNat / 268435456 * 268435456 + 4 * target.toNat ∧
    (linkValue s).toNat = (s.pc.toNat + 4) % 4294967296

/-! ### Instructions: adds -/

/-- R151: the two forms of the signed overflow predicate. -/
def Obligations.SignedOverflowForms : Prop :=
  ∀ a b : Word,
    (signedOverflow a b = true ↔ (a.toInt + b.toInt < -2 ^ 31 ∨ 2 ^ 31 - 1 < a.toInt + b.toInt)) ∧
    (signedOverflow a b = true ↔ (a.getLsbD 31 = b.getLsbD 31 ∧ (a + b).getLsbD 31 ≠ a.getLsbD 31))

/-- R153, R155: ADD and ADDI write the mathematical signed sum when it fits 32 bits, and otherwise raise ArithmeticOverflow and
write nothing, r0 as the destination included. Rests on the spec's own decisions D4, D15, D19 (log 6). -/
def Obligations.SignedAdds : Prop :=
  ∀ (s : State) (rd rs rt sa : RegIndex) (imm : BitVec 16),
    (-2 ^ 31 ≤ (s.getReg rs).toInt + (s.getReg rt).toInt → (s.getReg rs).toInt + (s.getReg rt).toInt ≤ 2 ^ 31 - 1 →
      ∃ t v, exec (.add rd rs rt sa) s = .next t ∧ v.toInt = (s.getReg rs).toInt + (s.getReg rt).toInt ∧
        Effect s t (some (rd, v)) none none) ∧
    (-2 ^ 31 ≤ (s.getReg rs).toInt + imm.toInt → (s.getReg rs).toInt + imm.toInt ≤ 2 ^ 31 - 1 →
      ∃ t v, exec (.addi rt rs imm) s = .next t ∧ v.toInt = (s.getReg rs).toInt + imm.toInt ∧
        Effect s t (some (rt, v)) none none) ∧
    (((s.getReg rs).toInt + (s.getReg rt).toInt < -2 ^ 31 ∨ 2 ^ 31 - 1 < (s.getReg rs).toInt + (s.getReg rt).toInt) →
      exec (.add rd rs rt sa) s = .next { s with
        halt := .faulted ⟨.arithmeticOverflow, .execute, s.pc - 4#32, some (encode (.add rd rs rt sa))⟩ }) ∧
    (((s.getReg rs).toInt + imm.toInt < -2 ^ 31 ∨ 2 ^ 31 - 1 < (s.getReg rs).toInt + imm.toInt) →
      exec (.addi rt rs imm) s = .next { s with
        halt := .faulted ⟨.arithmeticOverflow, .execute, s.pc - 4#32, some (encode (.addi rt rs imm))⟩ })

/-- R154, R156: ADDU and ADDIU write the sum modulo 2^32 and never raise; the immediate is sign-extended. Rests on the spec's own
decisions D4, D15 (log 6). -/
def Obligations.UnsignedAdds : Prop :=
  ∀ (s : State) (rd rs rt sa : RegIndex) (imm : BitVec 16),
    (∃ t v, exec (.addu rd rs rt sa) s = .next t ∧
      v.toNat = ((s.getReg rs).toNat + (s.getReg rt).toNat) % 4294967296 ∧ Effect s t (some (rd, v)) none none) ∧
    (∃ t v, exec (.addiu rt rs imm) s = .next t ∧
      (v.toNat : Int) = ((s.getReg rs).toNat + imm.toInt) % 4294967296 ∧ Effect s t (some (rt, v)) none none)

/-! ### Instructions: logical, shift, LUI -/

/-- R170, R171, R172: AND, OR and XOR, bit by bit. Rests on the spec's own decisions D4 (log 6). -/
def Obligations.RegisterLogical : Prop :=
  ∀ (s : State) (rd rs rt sa : RegIndex),
    (∃ t v, exec (.and rd rs rt sa) s = .next t ∧
      (∀ k, v.getLsbD k = ((s.getReg rs).getLsbD k && (s.getReg rt).getLsbD k)) ∧ Effect s t (some (rd, v)) none none) ∧
    (∃ t v, exec (.or rd rs rt sa) s = .next t ∧
      (∀ k, v.getLsbD k = ((s.getReg rs).getLsbD k || (s.getReg rt).getLsbD k)) ∧ Effect s t (some (rd, v)) none none) ∧
    (∃ t v, exec (.xor rd rs rt sa) s = .next t ∧
      (∀ k, v.getLsbD k = ((s.getReg rs).getLsbD k ^^ (s.getReg rt).getLsbD k)) ∧ Effect s t (some (rd, v)) none none)

/-- R173, R174: ANDI and ORI with the zero-extended immediate, bit by bit. Rests on the spec's own decisions D4 (log 6). -/
def Obligations.ImmediateLogical : Prop :=
  ∀ (s : State) (rt rs : RegIndex) (imm : BitVec 16),
    (∃ t v, exec (.andi rt rs imm) s = .next t ∧
      (∀ k, v.getLsbD k = (decide (k < 16) && (s.getReg rs).getLsbD k && imm.getLsbD k)) ∧
      Effect s t (some (rt, v)) none none) ∧
    (∃ t v, exec (.ori rt rs imm) s = .next t ∧
      (∀ k, v.getLsbD k = ((s.getReg rs).getLsbD k || (decide (k < 16) && imm.getLsbD k))) ∧
      Effect s t (some (rt, v)) none none)

/-- R175, R176, R177: SLL, SRL and SRA as arithmetic: multiplication modulo 2^32, division of the unsigned value, and floor
division of the signed value by the power of two. Rests on the spec's own decisions D4 (log 6). -/
def Obligations.ImmediateShifts : Prop :=
  ∀ (s : State) (rd rt shamt rs : RegIndex),
    (∃ t v, exec (.sll rd rt shamt rs) s = .next t ∧
      v.toNat = (s.getReg rt).toNat * 2 ^ shamt.toNat % 4294967296 ∧ Effect s t (some (rd, v)) none none) ∧
    (∃ t v, exec (.srl rd rt shamt rs) s = .next t ∧
      v.toNat = (s.getReg rt).toNat / 2 ^ shamt.toNat ∧ Effect s t (some (rd, v)) none none) ∧
    (∃ t v, exec (.sra rd rt shamt rs) s = .next t ∧
      v.toInt = (s.getReg rt).toInt / 2 ^ shamt.toNat ∧ Effect s t (some (rd, v)) none none)

/-- R178, R179, R180: SLLV, SRLV and SRAV: the amount is the register modulo 32. Rests on the spec's own decisions D4, D19 (log
6). -/
def Obligations.VariableShifts : Prop :=
  ∀ (s : State) (rd rt rs sa : RegIndex),
    (∃ t v, exec (.sllv rd rt rs sa) s = .next t ∧
      v.toNat = (s.getReg rt).toNat * 2 ^ ((s.getReg rs).toNat % 32) % 4294967296 ∧
      Effect s t (some (rd, v)) none none) ∧
    (∃ t v, exec (.srlv rd rt rs sa) s = .next t ∧
      v.toNat = (s.getReg rt).toNat / 2 ^ ((s.getReg rs).toNat % 32) ∧ Effect s t (some (rd, v)) none none) ∧
    (∃ t v, exec (.srav rd rt rs sa) s = .next t ∧
      v.toInt = (s.getReg rt).toInt / 2 ^ ((s.getReg rs).toNat % 32) ∧ Effect s t (some (rd, v)) none none)

/-- R181: LUI writes the immediate in the upper half, zeros below, at once. Rests on the spec's own decisions D4, D15 (log 6). -/
def Obligations.LoadUpperImmediate : Prop :=
  ∀ (s : State) (rt rs : RegIndex) (imm : BitVec 16),
    ∃ t v, exec (.lui rt imm rs) s = .next t ∧ v.toNat = imm.toNat * 65536 ∧ Effect s t (some (rt, v)) none none

/-! ### Instructions: loads and stores -/

/-- R201 to R205: a load whose read succeeds schedules the extended value, and changes nothing else. Rests on the spec's own
decisions D1, D4, D16, D22, D25 (log 6). -/
def Obligations.LoadsScheduleWhatTheyRead : Prop :=
  ∀ (s : State) (rt rs : RegIndex) (imm : BitVec 16) (m : Word),
    (s.memRead (effectiveAddress s rs imm) .byte = .ok m →
      (∃ t v, exec (.lb rt rs imm) s = .next t ∧ v.toInt = (m.setWidth 8).toInt ∧ Effect s t none (some ⟨rt, v⟩) none) ∧
      (∃ t v, exec (.lbu rt rs imm) s = .next t ∧ v.toNat = m.toNat % 256 ∧ Effect s t none (some ⟨rt, v⟩) none)) ∧
    (s.memRead (effectiveAddress s rs imm) .half = .ok m →
      ∃ t v, exec (.lhu rt rs imm) s = .next t ∧ v.toNat = m.toNat % 65536 ∧ Effect s t none (some ⟨rt, v⟩) none) ∧
    (s.memRead (effectiveAddress s rs imm) .word = .ok m →
      ∃ t, exec (.lw rt rs imm) s = .next t ∧ Effect s t none (some ⟨rt, m⟩) none)

/-- R201, R302: a load whose read raises ends the run with that condition; nothing is scheduled. Rests on the spec's own decisions
D16, D25, D27 (log 6). -/
def Obligations.LoadsRaiseWhatTheReadRaises : Prop :=
  ∀ (s : State) (rt rs : RegIndex) (imm : BitVec 16) (c : Condition),
    (s.memRead (effectiveAddress s rs imm) .byte = .error c →
      exec (.lb rt rs imm) s =
        .next { s with halt := .faulted ⟨c, .execute, s.pc - 4#32, some (encode (.lb rt rs imm))⟩ } ∧
      exec (.lbu rt rs imm) s =
        .next { s with halt := .faulted ⟨c, .execute, s.pc - 4#32, some (encode (.lbu rt rs imm))⟩ }) ∧
    (s.memRead (effectiveAddress s rs imm) .half = .error c → exec (.lhu rt rs imm) s =
      .next { s with halt := .faulted ⟨c, .execute, s.pc - 4#32, some (encode (.lhu rt rs imm))⟩ }) ∧
    (s.memRead (effectiveAddress s rs imm) .word = .error c → exec (.lw rt rs imm) s =
      .next { s with halt := .faulted ⟨c, .execute, s.pc - 4#32, some (encode (.lw rt rs imm))⟩ })

/-- R206, R208, R209, R210: with isolation off, a store whose effective address resolves into RAM inside its bounds writes its
bytes there, and changes nothing else. Rests on the spec's own decisions D1, D4, D22, D25 (log 6). -/
def Obligations.StoresWriteRam : Prop :=
  ∀ (s : State) (rt rs : RegIndex) (imm : BitVec 16) (off : Nat), Memory.wf s.ram = true →
    (s.getControl 12#5).getLsbD 16 = false →
    resolve s.config.memoryMap (effectiveAddress s rs imm) = some ⟨.ram, off⟩ →
    (off + 1 ≤ 0x200000 → ∃ t, exec (.sb rt rs imm) s = .next t ∧ StoreEffect s t off 1 (s.getReg rt)) ∧
    (off + 2 ≤ 0x200000 → ∃ t, exec (.sh rt rs imm) s = .next t ∧ StoreEffect s t off 2 (s.getReg rt)) ∧
    (off + 4 ≤ 0x200000 → ∃ t, exec (.sw rt rs imm) s = .next t ∧ StoreEffect s t off 4 (s.getReg rt))

/-- R206, R207: a store does nothing at all under cache isolation, at any address, and nothing to the BIOS or a stub. Rests on the
spec's own decisions D10, D25, D26 (log 6). -/
def Obligations.StoresThatDoNothing : Prop :=
  ∀ (s : State) (rt rs : RegIndex) (imm : BitVec 16),
    ((s.getControl 12#5).getLsbD 16 = true ∨
      ∃ p, resolve s.config.memoryMap (effectiveAddress s rs imm) = some p ∧ p.segment ≠ .ram) →
    exec (.sb rt rs imm) s = .next s ∧ exec (.sh rt rs imm) s = .next s ∧ exec (.sw rt rs imm) s = .next s

/-- R206, R303: with isolation off, a store to no window raises AddressNotMapped, and one past the end of RAM OutOfBounds; no byte
is written. Rests on the spec's own decisions D37 (log 6). -/
def Obligations.StoresRaise : Prop :=
  ∀ (s : State) (rt rs : RegIndex) (imm : BitVec 16) (i : Instr) (n : Nat), (s.getControl 12#5).getLsbD 16 = false →
    (i = .sb rt rs imm ∧ n = 1) ∨ (i = .sh rt rs imm ∧ n = 2) ∨ (i = .sw rt rs imm ∧ n = 4) →
    (resolve s.config.memoryMap (effectiveAddress s rs imm) = none →
      exec i s = .next { s with
        halt := .faulted ⟨.addressNotMapped (effectiveAddress s rs imm), .execute, s.pc - 4#32, some (encode i)⟩ }) ∧
    (∀ off, resolve s.config.memoryMap (effectiveAddress s rs imm) = some ⟨.ram, off⟩ → 0x200000 < off + n →
      exec i s = .next { s with
        halt := .faulted ⟨.outOfBounds (effectiveAddress s rs imm) off n, .execute, s.pc - 4#32, some (encode i)⟩ })

/-! ### Instructions: jumps and branches -/

/-- R231 to R236: J, JAL, JR and JALR schedule their target; JAL links r31 and JALR links rd at once, and JALR's target is the
register's old value. Rests on the spec's own decisions D4, D15, D17, D18, D19 (log 6). -/
def Obligations.JumpsScheduleTheirTarget : Prop :=
  ∀ (s : State) (target : BitVec 26) (rd rs rt sa : RegIndex),
    (∃ t a, exec (.j target) s = .next t ∧ a.toNat = s.pc.toNat / 268435456 * 268435456 + 4 * target.toNat ∧
      Effect s t none none (some ⟨a⟩)) ∧
    (∃ t a, exec (.jal target) s = .next t ∧ a.toNat = s.pc.toNat / 268435456 * 268435456 + 4 * target.toNat ∧
      Effect s t (some (31#5, s.pc + 4#32)) none (some ⟨a⟩)) ∧
    (∃ t, exec (.jr rs rt rd sa) s = .next t ∧ Effect s t none none (some ⟨s.getReg rs⟩)) ∧
    (∃ t, exec (.jalr rd rs rt sa) s = .next t ∧ Effect s t (some (rd, s.pc + 4#32)) none (some ⟨s.getReg rs⟩))

/-- R230, R237, R238, R245: BEQ and BNE schedule their target when the registers are equal, or differ, and nothing otherwise.
Rests on the spec's own decisions D4, D17 (log 6). -/
def Obligations.EqualityBranches : Prop :=
  ∀ (s : State) (rs rt : RegIndex) (imm : BitVec 16),
    ∃ a : Word, (a.toNat : Int) = (s.pc.toNat + 4 * imm.toInt) % 4294967296 ∧
      (∃ t, exec (.beq rs rt imm) s = .next t ∧
        Effect s t none none (if s.getReg rs = s.getReg rt then some ⟨a⟩ else none)) ∧
      (∃ t, exec (.bne rs rt imm) s = .next t ∧
        Effect s t none none (if s.getReg rs = s.getReg rt then none else some ⟨a⟩))

/-- R230, R239 to R242, R245: the one-register branches, on the signed value. Rests on the spec's own decisions D4, D8, D17 (log
6). -/
def Obligations.SignBranches : Prop :=
  ∀ (s : State) (rs rt : RegIndex) (imm : BitVec 16),
    ∃ a : Word, (a.toNat : Int) = (s.pc.toNat + 4 * imm.toInt) % 4294967296 ∧
      (∃ t, exec (.blez rs imm rt) s = .next t ∧
        Effect s t none none (if (s.getReg rs).toInt ≤ 0 then some ⟨a⟩ else none)) ∧
      (∃ t, exec (.bgtz rs imm rt) s = .next t ∧
        Effect s t none none (if 0 < (s.getReg rs).toInt then some ⟨a⟩ else none)) ∧
      (∃ t, exec (.bltz rs imm) s = .next t ∧
        Effect s t none none (if (s.getReg rs).getLsbD 31 then some ⟨a⟩ else none)) ∧
      (∃ t, exec (.bgez rs imm) s = .next t ∧
        Effect s t none none (if (s.getReg rs).getLsbD 31 then none else some ⟨a⟩))

/-- R232, R243, R244: BLTZAL and BGEZAL link r31 whether or not they branch, and test the register's old value. Rests on the
spec's own decisions D4, D8, D15, D17, D18, D19 (log 6). -/
def Obligations.LinkingBranches : Prop :=
  ∀ (s : State) (rs : RegIndex) (imm : BitVec 16),
    ∃ a : Word, (a.toNat : Int) = (s.pc.toNat + 4 * imm.toInt) % 4294967296 ∧
      (∃ t, exec (.bltzal rs imm) s = .next t ∧
        Effect s t (some (31#5, s.pc + 4#32)) none (if (s.getReg rs).toInt < 0 then some ⟨a⟩ else none)) ∧
      (∃ t, exec (.bgezal rs imm) s = .next t ∧
        Effect s t (some (31#5, s.pc + 4#32)) none (if 0 ≤ (s.getReg rs).toInt then some ⟨a⟩ else none))

/-! ### Instructions: cop0 moves and the Unlisted rows -/

/-- R270: MFC0 schedules the value the control register holds now, for every index. Rests on the spec's own decisions D3, D4, D9,
D26 (log 6). -/
def Obligations.MoveFromControl : Prop :=
  ∀ (s : State) (rt rd : RegIndex) (low : BitVec 11),
    ∃ t, exec (.mfc0 rt rd low) s = .next t ∧ Effect s t none (some ⟨rt, s.getControl rd⟩) none

/-- R29, R271: MTC0 writes at once when the index is 12 or the value is zero, and otherwise raises ControlRegisterWriteRejected
and writes nothing. Rests on the spec's own decisions D3, D4, D9, D10, D26 (log 6). -/
def Obligations.MoveToControl : Prop :=
  ∀ (s : State) (rt rd : RegIndex) (low : BitVec 11),
    (rd = 12#5 ∨ s.getReg rt = 0#32 →
      ∃ t, exec (.mtc0 rt rd low) s = .next t ∧ t.getControl rd = s.getReg rt ∧
        (∀ j : RegIndex, j ≠ rd → t.getControl j = s.getControl j) ∧
        KeepsRegs s t ∧ KeepsMemory s t ∧ KeepsQueues s t ∧ KeepsControl s t) ∧
    (¬ (rd = 12#5 ∨ s.getReg rt = 0#32) →
      exec (.mtc0 rt rd low) s = .next { s with
        halt := .faulted ⟨.controlRegisterWriteRejected rd (s.getReg rt), .execute, s.pc - 4#32,
          some (encode (.mtc0 rt rd low))⟩ })

/-- R94, R100, R104: each of the 38 Unlisted instructions (SLTI, SLTIU, XORI, COP1, COP2, COP3, LH, LWL, LWR, SWL, SWR, LWC0 to
LWC3, SWC0 to SWC3, SYSCALL, BREAK, MFHI, MTHI, MFLO, MTLO, MULT, MULTU, DIV, DIVU, SUB, SUBU, NOR, SLT, SLTU, CFC0, CTC0, BC0,
COP0 operation) is refused or raises OpcodeNotImplemented, as the policy says, and changes nothing but `halt`. That a constructor's
meaning does this, where R94 puts it in Decode, is the model's choice (log 11, DEDUCED). Rests on the spec's own decisions D4, D5,
D6, D8, D9 (log 6). -/
def Obligations.UnlistedInstructionsHalt : Prop :=
  ∀ (s : State) (i : Instr) (n : UnlistedName), i.unlistedName = some n →
    (s.config.unlistedPolicy = .refuse →
      exec i s = .next { s with halt := .refused ⟨s.pc - 4#32, encode i, n⟩ }) ∧
    (s.config.unlistedPolicy = .notImplemented →
      exec i s = .next { s with halt := .faulted ⟨.opcodeNotImplemented, .decode, s.pc - 4#32, some (encode i)⟩ })

/-! ### The host -/

/-- R39, R312, R313: the run loop pauses exactly at a breakpoint it is not resuming from, with the snapshot of the untouched
state; otherwise it steps; and a replaced store is what later reads see. The loop as one turn with a resuming flag, for a halted core
too, and the cop0 registers and `halt` in the snapshot are the model's choice (log 12, DEDUCED). Rests on the spec's own decisions
D34 (log 6). -/
def Obligations.HostTurnsAndSnapshot : Prop :=
  ∀ (s : State) (breakpoints : List Word) (resuming : Bool) (bytes : List Byte),
    (s.pc ∈ breakpoints → resuming = false → runLoopTurn breakpoints resuming s = .pause s.snapshot) ∧
    (s.pc ∉ breakpoints ∨ resuming = true → runLoopTurn breakpoints resuming s = .stepped (step s)) ∧
    (∀ r : RegIndex, s.snapshot.regs[r.toNat]? = some (s.getReg r) ∧ s.snapshot.cop0[r.toNat]? = some (s.getControl r)) ∧
    s.snapshot.pc = s.pc ∧ s.snapshot.halt = s.halt ∧
    (bytes.length = 0x200000 → ∀ off, off < 0x200000 → bytes[off]? = some (Memory.read (s.replaceRam bytes).ram off)) ∧
    (bytes.length = 0x80000 → ∀ off, off < 0x80000 → bytes[off]? = some (Memory.read (s.replaceBios bytes).bios off))
end

