-- ==== Sys2Proof/Laws/Fields.lean ====
section
/-! SUPPORT. The fields of each format's word, and each format's word from its fields (R91, R92). -/

namespace Sys2Proof

theorem toNat_append_sum {m n : Nat} (x : BitVec m) (y : BitVec n) : (x ++ y).toNat = x.toNat * 2 ^ n + y.toNat := by
  rw [BitVec.toNat_append, Nat.shiftLeft_eq, Nat.mul_comm, ← Nat.two_pow_add_eq_or_of_lt y.isLt]

theorem toNat_rType (rs : BitVec 5) (rt : BitVec 5) (rd : BitVec 5) (sa : BitVec 5) (f : BitVec 6) : (rType rs rt rd sa f).toNat = rs.toNat * 2097152 + rt.toNat * 65536 + rd.toNat * 2048 + sa.toNat * 64 + f.toNat := by
  simp only [rType, toNat_append_sum]
  simp
  try omega

theorem toNat_spType (bits : BitVec 20) (f : BitVec 6) : (spType bits f).toNat = bits.toNat * 64 + f.toNat := by
  simp only [spType, toNat_append_sum]
  simp
  try omega

theorem toNat_iType (op : BitVec 6) (rs : BitVec 5) (rt : BitVec 5) (imm : BitVec 16) : (iType op rs rt imm).toNat = op.toNat * 67108864 + rs.toNat * 2097152 + rt.toNat * 65536 + imm.toNat := by
  simp only [iType, toNat_append_sum]
  simp
  try omega

theorem toNat_jType (op : BitVec 6) (target : BitVec 26) : (jType op target).toNat = op.toNat * 67108864 + target.toNat := by
  simp only [jType, toNat_append_sum]
  simp
  try omega

theorem toNat_copType (sub : BitVec 5) (rt : BitVec 5) (rd : BitVec 5) (low : BitVec 11) : (copType sub rt rd low).toNat = 1073741824 + sub.toNat * 2097152 + rt.toNat * 65536 + rd.toNat * 2048 + low.toNat := by
  simp only [copType, toNat_append_sum]
  simp
  try omega

theorem toNat_cop0Type (sub : BitVec 5) (bits : BitVec 21) : (cop0Type sub bits).toNat = 1073741824 + sub.toNat * 2097152 + bits.toNat := by
  simp only [cop0Type, toNat_append_sum]
  simp
  try omega

theorem toNat_coType (bits : BitVec 25) : (coType bits).toNat = 1107296256 + bits.toNat := by
  simp only [coType, toNat_append_sum]
  simp
  try omega

@[simp] theorem opField_rType (rs : BitVec 5) (rt : BitVec 5) (rd : BitVec 5) (sa : BitVec 5) (f : BitVec 6) : opField (rType rs rt rd sa f) = 0x00#6 := by
  apply BitVec.eq_of_toNat_eq
  simp only [opField, BitVec.extractLsb'_toNat, Nat.shiftRight_eq_div_pow, toNat_rType]
  have := rs.isLt; have := rt.isLt; have := rd.isLt; have := sa.isLt; have := f.isLt
  simp only [BitVec.toNat_ofNat]
  omega

@[simp] theorem rsField_rType (rs : BitVec 5) (rt : BitVec 5) (rd : BitVec 5) (sa : BitVec 5) (f : BitVec 6) : rsField (rType rs rt rd sa f) = rs := by
  apply BitVec.eq_of_toNat_eq
  simp only [rsField, BitVec.extractLsb'_toNat, Nat.shiftRight_eq_div_pow, toNat_rType]
  have := rs.isLt; have := rt.isLt; have := rd.isLt; have := sa.isLt; have := f.isLt
  omega

@[simp] theorem rtField_rType (rs : BitVec 5) (rt : BitVec 5) (rd : BitVec 5) (sa : BitVec 5) (f : BitVec 6) : rtField (rType rs rt rd sa f) = rt := by
  apply BitVec.eq_of_toNat_eq
  simp only [rtField, BitVec.extractLsb'_toNat, Nat.shiftRight_eq_div_pow, toNat_rType]
  have := rs.isLt; have := rt.isLt; have := rd.isLt; have := sa.isLt; have := f.isLt
  omega

@[simp] theorem rdField_rType (rs : BitVec 5) (rt : BitVec 5) (rd : BitVec 5) (sa : BitVec 5) (f : BitVec 6) : rdField (rType rs rt rd sa f) = rd := by
  apply BitVec.eq_of_toNat_eq
  simp only [rdField, BitVec.extractLsb'_toNat, Nat.shiftRight_eq_div_pow, toNat_rType]
  have := rs.isLt; have := rt.isLt; have := rd.isLt; have := sa.isLt; have := f.isLt
  omega

@[simp] theorem shamtField_rType (rs : BitVec 5) (rt : BitVec 5) (rd : BitVec 5) (sa : BitVec 5) (f : BitVec 6) : shamtField (rType rs rt rd sa f) = sa := by
  apply BitVec.eq_of_toNat_eq
  simp only [shamtField, BitVec.extractLsb'_toNat, Nat.shiftRight_eq_div_pow, toNat_rType]
  have := rs.isLt; have := rt.isLt; have := rd.isLt; have := sa.isLt; have := f.isLt
  omega

@[simp] theorem functField_rType (rs : BitVec 5) (rt : BitVec 5) (rd : BitVec 5) (sa : BitVec 5) (f : BitVec 6) : functField (rType rs rt rd sa f) = f := by
  apply BitVec.eq_of_toNat_eq
  simp only [functField, BitVec.extractLsb'_toNat, Nat.shiftRight_eq_div_pow, toNat_rType]
  have := rs.isLt; have := rt.isLt; have := rd.isLt; have := sa.isLt; have := f.isLt
  omega

@[simp] theorem opField_spType (bits : BitVec 20) (f : BitVec 6) : opField (spType bits f) = 0x00#6 := by
  apply BitVec.eq_of_toNat_eq
  simp only [opField, BitVec.extractLsb'_toNat, Nat.shiftRight_eq_div_pow, toNat_spType]
  have := bits.isLt; have := f.isLt
  simp only [BitVec.toNat_ofNat]
  omega

@[simp] theorem functField_spType (bits : BitVec 20) (f : BitVec 6) : functField (spType bits f) = f := by
  apply BitVec.eq_of_toNat_eq
  simp only [functField, BitVec.extractLsb'_toNat, Nat.shiftRight_eq_div_pow, toNat_spType]
  have := bits.isLt; have := f.isLt
  omega

@[simp] theorem specialBits_spType (bits : BitVec 20) (f : BitVec 6) : specialBits (spType bits f) = bits := by
  apply BitVec.eq_of_toNat_eq
  simp only [specialBits, BitVec.extractLsb'_toNat, Nat.shiftRight_eq_div_pow, toNat_spType]
  have := bits.isLt; have := f.isLt
  omega

@[simp] theorem opField_iType (op : BitVec 6) (rs : BitVec 5) (rt : BitVec 5) (imm : BitVec 16) : opField (iType op rs rt imm) = op := by
  apply BitVec.eq_of_toNat_eq
  simp only [opField, BitVec.extractLsb'_toNat, Nat.shiftRight_eq_div_pow, toNat_iType]
  have := op.isLt; have := rs.isLt; have := rt.isLt; have := imm.isLt
  omega

@[simp] theorem rsField_iType (op : BitVec 6) (rs : BitVec 5) (rt : BitVec 5) (imm : BitVec 16) : rsField (iType op rs rt imm) = rs := by
  apply BitVec.eq_of_toNat_eq
  simp only [rsField, BitVec.extractLsb'_toNat, Nat.shiftRight_eq_div_pow, toNat_iType]
  have := op.isLt; have := rs.isLt; have := rt.isLt; have := imm.isLt
  omega

@[simp] theorem rtField_iType (op : BitVec 6) (rs : BitVec 5) (rt : BitVec 5) (imm : BitVec 16) : rtField (iType op rs rt imm) = rt := by
  apply BitVec.eq_of_toNat_eq
  simp only [rtField, BitVec.extractLsb'_toNat, Nat.shiftRight_eq_div_pow, toNat_iType]
  have := op.isLt; have := rs.isLt; have := rt.isLt; have := imm.isLt
  omega

@[simp] theorem immField_iType (op : BitVec 6) (rs : BitVec 5) (rt : BitVec 5) (imm : BitVec 16) : immField (iType op rs rt imm) = imm := by
  apply BitVec.eq_of_toNat_eq
  simp only [immField, BitVec.extractLsb'_toNat, Nat.shiftRight_eq_div_pow, toNat_iType]
  have := op.isLt; have := rs.isLt; have := rt.isLt; have := imm.isLt
  omega

@[simp] theorem opField_jType (op : BitVec 6) (target : BitVec 26) : opField (jType op target) = op := by
  apply BitVec.eq_of_toNat_eq
  simp only [opField, BitVec.extractLsb'_toNat, Nat.shiftRight_eq_div_pow, toNat_jType]
  have := op.isLt; have := target.isLt
  omega

@[simp] theorem targetField_jType (op : BitVec 6) (target : BitVec 26) : targetField (jType op target) = target := by
  apply BitVec.eq_of_toNat_eq
  simp only [targetField, BitVec.extractLsb'_toNat, Nat.shiftRight_eq_div_pow, toNat_jType]
  have := op.isLt; have := target.isLt
  omega

@[simp] theorem opField_copType (sub : BitVec 5) (rt : BitVec 5) (rd : BitVec 5) (low : BitVec 11) : opField (copType sub rt rd low) = 0x10#6 := by
  apply BitVec.eq_of_toNat_eq
  simp only [opField, BitVec.extractLsb'_toNat, Nat.shiftRight_eq_div_pow, toNat_copType]
  have := sub.isLt; have := rt.isLt; have := rd.isLt; have := low.isLt
  simp only [BitVec.toNat_ofNat]
  omega

@[simp] theorem rsField_copType (sub : BitVec 5) (rt : BitVec 5) (rd : BitVec 5) (low : BitVec 11) : rsField (copType sub rt rd low) = sub := by
  apply BitVec.eq_of_toNat_eq
  simp only [rsField, BitVec.extractLsb'_toNat, Nat.shiftRight_eq_div_pow, toNat_copType]
  have := sub.isLt; have := rt.isLt; have := rd.isLt; have := low.isLt
  omega

@[simp] theorem rtField_copType (sub : BitVec 5) (rt : BitVec 5) (rd : BitVec 5) (low : BitVec 11) : rtField (copType sub rt rd low) = rt := by
  apply BitVec.eq_of_toNat_eq
  simp only [rtField, BitVec.extractLsb'_toNat, Nat.shiftRight_eq_div_pow, toNat_copType]
  have := sub.isLt; have := rt.isLt; have := rd.isLt; have := low.isLt
  omega

@[simp] theorem rdField_copType (sub : BitVec 5) (rt : BitVec 5) (rd : BitVec 5) (low : BitVec 11) : rdField (copType sub rt rd low) = rd := by
  apply BitVec.eq_of_toNat_eq
  simp only [rdField, BitVec.extractLsb'_toNat, Nat.shiftRight_eq_div_pow, toNat_copType]
  have := sub.isLt; have := rt.isLt; have := rd.isLt; have := low.isLt
  omega

@[simp] theorem lowField_copType (sub : BitVec 5) (rt : BitVec 5) (rd : BitVec 5) (low : BitVec 11) : lowField (copType sub rt rd low) = low := by
  apply BitVec.eq_of_toNat_eq
  simp only [lowField, BitVec.extractLsb'_toNat, Nat.shiftRight_eq_div_pow, toNat_copType]
  have := sub.isLt; have := rt.isLt; have := rd.isLt; have := low.isLt
  omega

@[simp] theorem opField_cop0Type (sub : BitVec 5) (bits : BitVec 21) : opField (cop0Type sub bits) = 0x10#6 := by
  apply BitVec.eq_of_toNat_eq
  simp only [opField, BitVec.extractLsb'_toNat, Nat.shiftRight_eq_div_pow, toNat_cop0Type]
  have := sub.isLt; have := bits.isLt
  simp only [BitVec.toNat_ofNat]
  omega

@[simp] theorem rsField_cop0Type (sub : BitVec 5) (bits : BitVec 21) : rsField (cop0Type sub bits) = sub := by
  apply BitVec.eq_of_toNat_eq
  simp only [rsField, BitVec.extractLsb'_toNat, Nat.shiftRight_eq_div_pow, toNat_cop0Type]
  have := sub.isLt; have := bits.isLt
  omega

@[simp] theorem cop0Bits_cop0Type (sub : BitVec 5) (bits : BitVec 21) : cop0Bits (cop0Type sub bits) = bits := by
  apply BitVec.eq_of_toNat_eq
  simp only [cop0Bits, BitVec.extractLsb'_toNat, Nat.shiftRight_eq_div_pow, toNat_cop0Type]
  have := sub.isLt; have := bits.isLt
  omega

@[simp] theorem opField_coType (bits : BitVec 25) : opField (coType bits) = 0x10#6 := by
  apply BitVec.eq_of_toNat_eq
  simp only [opField, BitVec.extractLsb'_toNat, Nat.shiftRight_eq_div_pow, toNat_coType]
  have := bits.isLt
  simp only [BitVec.toNat_ofNat]
  omega

@[simp] theorem coBits_coType (bits : BitVec 25) : coBits (coType bits) = bits := by
  apply BitVec.eq_of_toNat_eq
  simp only [coBits, BitVec.extractLsb'_toNat, Nat.shiftRight_eq_div_pow, toNat_coType]
  have := bits.isLt
  omega

theorem rsField_coType_ge (bits : BitVec 25) : 0x10#5 ≤ rsField (coType bits) := by
  simp only [BitVec.le_def, rsField, BitVec.extractLsb'_toNat, Nat.shiftRight_eq_div_pow, toNat_coType, BitVec.toNat_ofNat]
  have := bits.isLt
  omega

theorem rType_fields (w : Word) (h : opField w = 0x00#6) : rType (rsField w) (rtField w) (rdField w) (shamtField w) (functField w) = w := by
  apply BitVec.eq_of_toNat_eq
  have := w.isLt
  have h := congrArg BitVec.toNat h
  simp only [toNat_rType, functField, opField, rdField, rsField, rtField, shamtField, BitVec.extractLsb'_toNat, Nat.shiftRight_eq_div_pow, BitVec.toNat_ofNat] at *
  omega

theorem spType_fields (w : Word) (h : opField w = 0x00#6) : spType (specialBits w) (functField w) = w := by
  apply BitVec.eq_of_toNat_eq
  have := w.isLt
  have h := congrArg BitVec.toNat h
  simp only [toNat_spType, functField, opField, specialBits, BitVec.extractLsb'_toNat, Nat.shiftRight_eq_div_pow, BitVec.toNat_ofNat] at *
  omega

theorem iType_fields (w : Word) : iType (opField w) (rsField w) (rtField w) (immField w) = w := by
  apply BitVec.eq_of_toNat_eq
  have := w.isLt
  simp only [toNat_iType, immField, opField, rsField, rtField, BitVec.extractLsb'_toNat, Nat.shiftRight_eq_div_pow, BitVec.toNat_ofNat] at *
  omega

theorem jType_fields (w : Word) : jType (opField w) (targetField w) = w := by
  apply BitVec.eq_of_toNat_eq
  have := w.isLt
  simp only [toNat_jType, opField, targetField, BitVec.extractLsb'_toNat, Nat.shiftRight_eq_div_pow, BitVec.toNat_ofNat] at *
  omega

theorem copType_fields (w : Word) (h : opField w = 0x10#6) : copType (rsField w) (rtField w) (rdField w) (lowField w) = w := by
  apply BitVec.eq_of_toNat_eq
  have := w.isLt
  have h := congrArg BitVec.toNat h
  simp only [toNat_copType, lowField, opField, rdField, rsField, rtField, BitVec.extractLsb'_toNat, Nat.shiftRight_eq_div_pow, BitVec.toNat_ofNat] at *
  omega

theorem cop0Type_fields (w : Word) (h : opField w = 0x10#6) : cop0Type (rsField w) (cop0Bits w) = w := by
  apply BitVec.eq_of_toNat_eq
  have := w.isLt
  have h := congrArg BitVec.toNat h
  simp only [toNat_cop0Type, cop0Bits, opField, rsField, BitVec.extractLsb'_toNat, Nat.shiftRight_eq_div_pow, BitVec.toNat_ofNat] at *
  omega

theorem coType_fields (w : Word) (h : opField w = 0x10#6) (h2 : 0x10#5 ≤ rsField w) : coType (coBits w) = w := by
  apply BitVec.eq_of_toNat_eq
  have := w.isLt
  have h := congrArg BitVec.toNat h
  rw [BitVec.le_def] at h2
  simp only [toNat_coType, coBits, opField, rsField, BitVec.extractLsb'_toNat, Nat.shiftRight_eq_div_pow, BitVec.toNat_ofNat] at *
  omega

end Sys2Proof
end

