-- ==== Sys2Proof/Laws/PerInstr.lean ====
section
/-! SUPPORT. Per-instruction laws of the syntax: the family RowEncoding. -/

namespace Sys2Proof

/-! ### A word under each of the table's masks -/

theorem masked_op (w : Word) : w &&& 0xFC000000#32 = (opField w).setWidth 32 <<< 26 := by
  apply BitVec.eq_of_getLsbD_eq
  intro i hi
  interval_cases i <;> simp [opField]

theorem masked_special (w : Word) :
    w &&& 0xFC00003F#32 = (opField w).setWidth 32 <<< 26 ||| (functField w).setWidth 32 := by
  apply BitVec.eq_of_getLsbD_eq
  intro i hi
  interval_cases i <;> simp [opField, functField]

theorem masked_regimm (w : Word) :
    w &&& 0xFC1F0000#32 = (opField w).setWidth 32 <<< 26 ||| (rtField w).setWidth 32 <<< 16 := by
  apply BitVec.eq_of_getLsbD_eq
  intro i hi
  interval_cases i <;> simp [opField, rtField]

theorem masked_cop0 (w : Word) :
    w &&& 0xFFE00000#32 = (opField w).setWidth 32 <<< 26 ||| (rsField w).setWidth 32 <<< 21 := by
  apply BitVec.eq_of_getLsbD_eq
  intro i hi
  interval_cases i <;> simp [opField, rsField]

theorem coType_masked (bits : BitVec 25) : coType bits &&& 0xFE000000#32 = 0x42000000#32 := by
  apply BitVec.eq_of_toNat_eq
  have h : coType bits &&& 0xFE000000#32 = ((coType bits).extractLsb' 25 7).setWidth 32 <<< 25 := by
    apply BitVec.eq_of_getLsbD_eq
    intro i hi
    interval_cases i <;> simp
  have h2 : (coType bits).extractLsb' 25 7 = 0x21#7 := by
    apply BitVec.eq_of_toNat_eq
    have := bits.isLt
    simp only [BitVec.extractLsb'_toNat, Nat.shiftRight_eq_div_pow, toNat_coType, BitVec.toNat_ofNat]
    omega
  rw [h, h2]
  decide

/-- The encoder puts exactly its row's fixed bits into the word (spec/opcode_table.json). -/
def Laws.RowEncoding.Statement (i : Instr) : Prop := encode i &&& i.rowMask = i.rowMatch

namespace Laws.RowEncoding

theorem add (rd : BitVec 5) (rs : BitVec 5) (rt : BitVec 5) (sa : BitVec 5) : Statement (.add rd rs rt sa) :=
  (masked_special _).trans (by simp only [encode, opField_rType, functField_rType]; rfl)
theorem addu (rd : BitVec 5) (rs : BitVec 5) (rt : BitVec 5) (sa : BitVec 5) : Statement (.addu rd rs rt sa) :=
  (masked_special _).trans (by simp only [encode, opField_rType, functField_rType]; rfl)
theorem addi (rt : BitVec 5) (rs : BitVec 5) (imm : BitVec 16) : Statement (.addi rt rs imm) :=
  (masked_op _).trans (by simp only [encode, opField_iType]; rfl)
theorem addiu (rt : BitVec 5) (rs : BitVec 5) (imm : BitVec 16) : Statement (.addiu rt rs imm) :=
  (masked_op _).trans (by simp only [encode, opField_iType]; rfl)
theorem and (rd : BitVec 5) (rs : BitVec 5) (rt : BitVec 5) (sa : BitVec 5) : Statement (.and rd rs rt sa) :=
  (masked_special _).trans (by simp only [encode, opField_rType, functField_rType]; rfl)
theorem or (rd : BitVec 5) (rs : BitVec 5) (rt : BitVec 5) (sa : BitVec 5) : Statement (.or rd rs rt sa) :=
  (masked_special _).trans (by simp only [encode, opField_rType, functField_rType]; rfl)
theorem xor (rd : BitVec 5) (rs : BitVec 5) (rt : BitVec 5) (sa : BitVec 5) : Statement (.xor rd rs rt sa) :=
  (masked_special _).trans (by simp only [encode, opField_rType, functField_rType]; rfl)
theorem andi (rt : BitVec 5) (rs : BitVec 5) (imm : BitVec 16) : Statement (.andi rt rs imm) :=
  (masked_op _).trans (by simp only [encode, opField_iType]; rfl)
theorem ori (rt : BitVec 5) (rs : BitVec 5) (imm : BitVec 16) : Statement (.ori rt rs imm) :=
  (masked_op _).trans (by simp only [encode, opField_iType]; rfl)
theorem sll (rd : BitVec 5) (rt : BitVec 5) (shamt : BitVec 5) (rs : BitVec 5) : Statement (.sll rd rt shamt rs) :=
  (masked_special _).trans (by simp only [encode, opField_rType, functField_rType]; rfl)
theorem srl (rd : BitVec 5) (rt : BitVec 5) (shamt : BitVec 5) (rs : BitVec 5) : Statement (.srl rd rt shamt rs) :=
  (masked_special _).trans (by simp only [encode, opField_rType, functField_rType]; rfl)
theorem sra (rd : BitVec 5) (rt : BitVec 5) (shamt : BitVec 5) (rs : BitVec 5) : Statement (.sra rd rt shamt rs) :=
  (masked_special _).trans (by simp only [encode, opField_rType, functField_rType]; rfl)
theorem sllv (rd : BitVec 5) (rt : BitVec 5) (rs : BitVec 5) (sa : BitVec 5) : Statement (.sllv rd rt rs sa) :=
  (masked_special _).trans (by simp only [encode, opField_rType, functField_rType]; rfl)
theorem srlv (rd : BitVec 5) (rt : BitVec 5) (rs : BitVec 5) (sa : BitVec 5) : Statement (.srlv rd rt rs sa) :=
  (masked_special _).trans (by simp only [encode, opField_rType, functField_rType]; rfl)
theorem srav (rd : BitVec 5) (rt : BitVec 5) (rs : BitVec 5) (sa : BitVec 5) : Statement (.srav rd rt rs sa) :=
  (masked_special _).trans (by simp only [encode, opField_rType, functField_rType]; rfl)
theorem lui (rt : BitVec 5) (imm : BitVec 16) (rs : BitVec 5) : Statement (.lui rt imm rs) :=
  (masked_op _).trans (by simp only [encode, opField_iType]; rfl)
theorem lb (rt : BitVec 5) (rs : BitVec 5) (imm : BitVec 16) : Statement (.lb rt rs imm) :=
  (masked_op _).trans (by simp only [encode, opField_iType]; rfl)
theorem lbu (rt : BitVec 5) (rs : BitVec 5) (imm : BitVec 16) : Statement (.lbu rt rs imm) :=
  (masked_op _).trans (by simp only [encode, opField_iType]; rfl)
theorem lhu (rt : BitVec 5) (rs : BitVec 5) (imm : BitVec 16) : Statement (.lhu rt rs imm) :=
  (masked_op _).trans (by simp only [encode, opField_iType]; rfl)
theorem lw (rt : BitVec 5) (rs : BitVec 5) (imm : BitVec 16) : Statement (.lw rt rs imm) :=
  (masked_op _).trans (by simp only [encode, opField_iType]; rfl)
theorem sb (rt : BitVec 5) (rs : BitVec 5) (imm : BitVec 16) : Statement (.sb rt rs imm) :=
  (masked_op _).trans (by simp only [encode, opField_iType]; rfl)
theorem sh (rt : BitVec 5) (rs : BitVec 5) (imm : BitVec 16) : Statement (.sh rt rs imm) :=
  (masked_op _).trans (by simp only [encode, opField_iType]; rfl)
theorem sw (rt : BitVec 5) (rs : BitVec 5) (imm : BitVec 16) : Statement (.sw rt rs imm) :=
  (masked_op _).trans (by simp only [encode, opField_iType]; rfl)
theorem j (target : BitVec 26) : Statement (.j target) :=
  (masked_op _).trans (by simp only [encode, opField_jType]; rfl)
theorem jal (target : BitVec 26) : Statement (.jal target) :=
  (masked_op _).trans (by simp only [encode, opField_jType]; rfl)
theorem jr (rs : BitVec 5) (rt : BitVec 5) (rd : BitVec 5) (sa : BitVec 5) : Statement (.jr rs rt rd sa) :=
  (masked_special _).trans (by simp only [encode, opField_rType, functField_rType]; rfl)
theorem jalr (rd : BitVec 5) (rs : BitVec 5) (rt : BitVec 5) (sa : BitVec 5) : Statement (.jalr rd rs rt sa) :=
  (masked_special _).trans (by simp only [encode, opField_rType, functField_rType]; rfl)
theorem beq (rs : BitVec 5) (rt : BitVec 5) (imm : BitVec 16) : Statement (.beq rs rt imm) :=
  (masked_op _).trans (by simp only [encode, opField_iType]; rfl)
theorem bne (rs : BitVec 5) (rt : BitVec 5) (imm : BitVec 16) : Statement (.bne rs rt imm) :=
  (masked_op _).trans (by simp only [encode, opField_iType]; rfl)
theorem blez (rs : BitVec 5) (imm : BitVec 16) (rt : BitVec 5) : Statement (.blez rs imm rt) :=
  (masked_op _).trans (by simp only [encode, opField_iType]; rfl)
theorem bgtz (rs : BitVec 5) (imm : BitVec 16) (rt : BitVec 5) : Statement (.bgtz rs imm rt) :=
  (masked_op _).trans (by simp only [encode, opField_iType]; rfl)
theorem bltz (rs : BitVec 5) (imm : BitVec 16) : Statement (.bltz rs imm) :=
  (masked_regimm _).trans (by simp only [encode, opField_iType, rtField_iType]; rfl)
theorem bgez (rs : BitVec 5) (imm : BitVec 16) : Statement (.bgez rs imm) :=
  (masked_regimm _).trans (by simp only [encode, opField_iType, rtField_iType]; rfl)
theorem bltzal (rs : BitVec 5) (imm : BitVec 16) : Statement (.bltzal rs imm) :=
  (masked_regimm _).trans (by simp only [encode, opField_iType, rtField_iType]; rfl)
theorem bgezal (rs : BitVec 5) (imm : BitVec 16) : Statement (.bgezal rs imm) :=
  (masked_regimm _).trans (by simp only [encode, opField_iType, rtField_iType]; rfl)
theorem mfc0 (rt : BitVec 5) (rd : BitVec 5) (low : BitVec 11) : Statement (.mfc0 rt rd low) :=
  (masked_cop0 _).trans (by simp only [encode, opField_copType, rsField_copType]; rfl)
theorem mtc0 (rt : BitVec 5) (rd : BitVec 5) (low : BitVec 11) : Statement (.mtc0 rt rd low) :=
  (masked_cop0 _).trans (by simp only [encode, opField_copType, rsField_copType]; rfl)
theorem slti (bits : BitVec 26) : Statement (.slti bits) :=
  (masked_op _).trans (by simp only [encode, opField_jType]; rfl)
theorem sltiu (bits : BitVec 26) : Statement (.sltiu bits) :=
  (masked_op _).trans (by simp only [encode, opField_jType]; rfl)
theorem xori (bits : BitVec 26) : Statement (.xori bits) :=
  (masked_op _).trans (by simp only [encode, opField_jType]; rfl)
theorem cop1 (bits : BitVec 26) : Statement (.cop1 bits) :=
  (masked_op _).trans (by simp only [encode, opField_jType]; rfl)
theorem cop2 (bits : BitVec 26) : Statement (.cop2 bits) :=
  (masked_op _).trans (by simp only [encode, opField_jType]; rfl)
theorem cop3 (bits : BitVec 26) : Statement (.cop3 bits) :=
  (masked_op _).trans (by simp only [encode, opField_jType]; rfl)
theorem lh (bits : BitVec 26) : Statement (.lh bits) :=
  (masked_op _).trans (by simp only [encode, opField_jType]; rfl)
theorem lwl (bits : BitVec 26) : Statement (.lwl bits) :=
  (masked_op _).trans (by simp only [encode, opField_jType]; rfl)
theorem lwr (bits : BitVec 26) : Statement (.lwr bits) :=
  (masked_op _).trans (by simp only [encode, opField_jType]; rfl)
theorem swl (bits : BitVec 26) : Statement (.swl bits) :=
  (masked_op _).trans (by simp only [encode, opField_jType]; rfl)
theorem swr (bits : BitVec 26) : Statement (.swr bits) :=
  (masked_op _).trans (by simp only [encode, opField_jType]; rfl)
theorem lwc0 (bits : BitVec 26) : Statement (.lwc0 bits) :=
  (masked_op _).trans (by simp only [encode, opField_jType]; rfl)
theorem lwc1 (bits : BitVec 26) : Statement (.lwc1 bits) :=
  (masked_op _).trans (by simp only [encode, opField_jType]; rfl)
theorem lwc2 (bits : BitVec 26) : Statement (.lwc2 bits) :=
  (masked_op _).trans (by simp only [encode, opField_jType]; rfl)
theorem lwc3 (bits : BitVec 26) : Statement (.lwc3 bits) :=
  (masked_op _).trans (by simp only [encode, opField_jType]; rfl)
theorem swc0 (bits : BitVec 26) : Statement (.swc0 bits) :=
  (masked_op _).trans (by simp only [encode, opField_jType]; rfl)
theorem swc1 (bits : BitVec 26) : Statement (.swc1 bits) :=
  (masked_op _).trans (by simp only [encode, opField_jType]; rfl)
theorem swc2 (bits : BitVec 26) : Statement (.swc2 bits) :=
  (masked_op _).trans (by simp only [encode, opField_jType]; rfl)
theorem swc3 (bits : BitVec 26) : Statement (.swc3 bits) :=
  (masked_op _).trans (by simp only [encode, opField_jType]; rfl)
theorem syscall (bits : BitVec 20) : Statement (.syscall bits) :=
  (masked_special _).trans (by simp only [encode, opField_spType, functField_spType]; rfl)
theorem brk (bits : BitVec 20) : Statement (.brk bits) :=
  (masked_special _).trans (by simp only [encode, opField_spType, functField_spType]; rfl)
theorem mfhi (bits : BitVec 20) : Statement (.mfhi bits) :=
  (masked_special _).trans (by simp only [encode, opField_spType, functField_spType]; rfl)
theorem mthi (bits : BitVec 20) : Statement (.mthi bits) :=
  (masked_special _).trans (by simp only [encode, opField_spType, functField_spType]; rfl)
theorem mflo (bits : BitVec 20) : Statement (.mflo bits) :=
  (masked_special _).trans (by simp only [encode, opField_spType, functField_spType]; rfl)
theorem mtlo (bits : BitVec 20) : Statement (.mtlo bits) :=
  (masked_special _).trans (by simp only [encode, opField_spType, functField_spType]; rfl)
theorem mult (bits : BitVec 20) : Statement (.mult bits) :=
  (masked_special _).trans (by simp only [encode, opField_spType, functField_spType]; rfl)
theorem multu (bits : BitVec 20) : Statement (.multu bits) :=
  (masked_special _).trans (by simp only [encode, opField_spType, functField_spType]; rfl)
theorem div (bits : BitVec 20) : Statement (.div bits) :=
  (masked_special _).trans (by simp only [encode, opField_spType, functField_spType]; rfl)
theorem divu (bits : BitVec 20) : Statement (.divu bits) :=
  (masked_special _).trans (by simp only [encode, opField_spType, functField_spType]; rfl)
theorem sub (bits : BitVec 20) : Statement (.sub bits) :=
  (masked_special _).trans (by simp only [encode, opField_spType, functField_spType]; rfl)
theorem subu (bits : BitVec 20) : Statement (.subu bits) :=
  (masked_special _).trans (by simp only [encode, opField_spType, functField_spType]; rfl)
theorem nor (bits : BitVec 20) : Statement (.nor bits) :=
  (masked_special _).trans (by simp only [encode, opField_spType, functField_spType]; rfl)
theorem slt (bits : BitVec 20) : Statement (.slt bits) :=
  (masked_special _).trans (by simp only [encode, opField_spType, functField_spType]; rfl)
theorem sltu (bits : BitVec 20) : Statement (.sltu bits) :=
  (masked_special _).trans (by simp only [encode, opField_spType, functField_spType]; rfl)
theorem cfc0 (bits : BitVec 21) : Statement (.cfc0 bits) :=
  (masked_cop0 _).trans (by simp only [encode, opField_cop0Type, rsField_cop0Type]; rfl)
theorem ctc0 (bits : BitVec 21) : Statement (.ctc0 bits) :=
  (masked_cop0 _).trans (by simp only [encode, opField_cop0Type, rsField_cop0Type]; rfl)
theorem bc0 (bits : BitVec 21) : Statement (.bc0 bits) :=
  (masked_cop0 _).trans (by simp only [encode, opField_cop0Type, rsField_cop0Type]; rfl)
theorem cop0Operation (bits : BitVec 25) : Statement (.cop0Operation bits) := coType_masked bits

end Laws.RowEncoding

end Sys2Proof
end

