-- ==== Sys2Proof/Laws/Decode.lean ====
section
/-! SUPPORT. The decoder read backwards, table by table, and the key fields of a word known under a row's mask. A goal that ends in
one of the six `…Type_fields` equations closes by `simp only` with them: they are found by their head, never by unfolding. -/

namespace Sys2Proof

/-- What the SPECIAL table answers encodes to the word (R96). -/
theorem encode_of_decodeSpecial {w : Word} {i : Instr} (h0 : opField w = 0x00#6) (h : decodeSpecial w = .ok i) :
    encode i = w := by
  unfold decodeSpecial at h
  split at h <;> cases h <;> rename_i h1 <;> simp only [encode] <;> rw [← h1] <;>
    simp only [rType_fields w h0, spType_fields w h0]

/-- What the REGIMM table answers encodes to the word (R97). -/
theorem encode_of_decodeRegimm {w : Word} {i : Instr} (h0 : opField w = 0x01#6) (h : decodeRegimm w = .ok i) :
    encode i = w := by
  unfold decodeRegimm at h
  split at h <;> cases h <;> rename_i h1 <;> simp only [encode] <;> rw [← h0, ← h1] <;> exact iType_fields w

/-- What the COP0 table answers encodes to the word (R98). -/
theorem encode_of_decodeCop0 {w : Word} {i : Instr} (h0 : opField w = 0x10#6) (h : decodeCop0 w = .ok i) :
    encode i = w := by
  unfold decodeCop0 at h
  split at h
  case h_6 =>
    split at h
    · next h2 => cases h; exact coType_fields w h0 h2
    · cases h
  all_goals
    cases h
    rename_i h1
    simp only [encode]
    rw [← h1]
    simp only [copType_fields w h0, cop0Type_fields w h0]

/-- The key of a word under a primary row's mask. -/
theorem opField_masked (w : Word) : opField (w &&& 0xFC000000#32) = opField w := by
  apply BitVec.eq_of_getLsbD_eq
  intro i hi
  interval_cases i <;> simp [opField]

/-- The keys of a word under a SPECIAL row's mask. -/
theorem specialKey_masked (w : Word) :
    opField (w &&& 0xFC00003F#32) = opField w ∧ functField (w &&& 0xFC00003F#32) = functField w := by
  constructor <;> apply BitVec.eq_of_getLsbD_eq <;> intro i hi <;> interval_cases i <;> simp [opField, functField]

/-- The keys of a word under a REGIMM row's mask. -/
theorem regimmKey_masked (w : Word) :
    opField (w &&& 0xFC1F0000#32) = opField w ∧ rtField (w &&& 0xFC1F0000#32) = rtField w := by
  constructor <;> apply BitVec.eq_of_getLsbD_eq <;> intro i hi <;> interval_cases i <;> simp [opField, rtField]

/-- The keys of a word under a COP0 row's mask. -/
theorem cop0Key_masked (w : Word) :
    opField (w &&& 0xFFE00000#32) = opField w ∧ rsField (w &&& 0xFFE00000#32) = rsField w := by
  constructor <;> apply BitVec.eq_of_getLsbD_eq <;> intro i hi <;> interval_cases i <;> simp [opField, rsField]

/-- The keys of a word that carries the fixed bits of the COP0 operation row. -/
theorem coKey_of_masked {w : Word} (h : w &&& 0xFE000000#32 = 0x42000000#32) :
    opField w = 0x10#6 ∧ 0x10#5 ≤ rsField w := by
  have h1 : opField (w &&& 0xFE000000#32) = opField w := by
    apply BitVec.eq_of_getLsbD_eq
    intro i hi
    interval_cases i <;> simp [opField]
  have h2 : (rsField w).getLsbD 4 = (w &&& 0xFE000000#32).getLsbD 25 := by simp [rsField]
  rw [h] at h1 h2
  refine ⟨h1.symm.trans rfl, ?_⟩
  have h3 : (rsField w).getLsbD 4 = true := h2.trans rfl
  generalize rsField w = f at h3
  revert f
  decide

end Sys2Proof
end

