-- ==== Sys2Proof/Laws/Memory.lean ====
section
/-! SUPPORT. The byte store: the canonical form is kept by every operation, and read after write (R34, R57, R58). -/

namespace Sys2Proof.Machine

theorem wfFrom_mono {lo lo' : Nat} (h : lo ≤ lo') : ∀ {m : Memory}, Memory.wfFrom lo' m = true → Memory.wfFrom lo m = true
  | [], _ => rfl
  | (k, b) :: rest, hm => by
    simp only [Memory.wfFrom, Bool.and_eq_true, decide_eq_true_eq] at hm ⊢
    exact ⟨⟨by omega, hm.1.2⟩, hm.2⟩

/-- Below its first possible offset, a canonical store reads blank. -/
theorem read_below {lo : Nat} : ∀ {m : Memory}, Memory.wfFrom lo m = true → ∀ {a : Nat}, a < lo → Memory.read m a = Memory.blank
  | [], _, _, _ => rfl
  | (k, b) :: rest, hm, a, ha => by
    simp only [Memory.wfFrom, Bool.and_eq_true, decide_eq_true_eq] at hm
    have : a < k := by omega
    simp [Memory.read, this]

theorem wfFrom_write {lo a : Nat} {v : Byte} (hlo : lo ≤ a) :
    ∀ {m : Memory}, Memory.wfFrom lo m = true → Memory.wfFrom lo (Memory.write m a v) = true := by
  intro m
  induction m generalizing lo with
  | nil => intro _; by_cases hv : v = Memory.blank <;> simp [Memory.write, Memory.wfFrom, hv, hlo]
  | cons c rest ih =>
    obtain ⟨k, b⟩ := c
    intro hm
    simp only [Memory.wfFrom, Bool.and_eq_true, decide_eq_true_eq] at hm
    obtain ⟨⟨h1, h2⟩, h3⟩ := hm
    unfold Memory.write
    split
    · split
      · simp [Memory.wfFrom, h1, h2, h3]
      · next hk hv =>
        have : a + 1 ≤ k := by omega
        simp [Memory.wfFrom, hlo, hv, this, h2, h3]
    · split
      · next hk hak =>
        subst hak
        split
        · exact wfFrom_mono (by omega) h3
        · next hv => simp [Memory.wfFrom, hlo, hv, h3]
      · next hk hak =>
        have : k + 1 ≤ a := by omega
        simp [Memory.wfFrom, h1, h2, ih this h3]

/-- A write keeps the canonical form. -/
theorem wf_write {m : Memory} (h : Memory.wf m = true) (a : Nat) (v : Byte) : Memory.wf (Memory.write m a v) = true :=
  wfFrom_write (Nat.zero_le a) h

/-- Read after write, in a canonical store. -/
theorem read_write_from {lo : Nat} : ∀ {m : Memory}, Memory.wfFrom lo m = true → ∀ (a a' : Nat) (v : Byte),
    Memory.read (Memory.write m a v) a' = if a' = a then v else Memory.read m a' := by
  intro m
  induction m generalizing lo with
  | nil =>
    intro _ a a' v
    unfold Memory.write
    split
    · next hv => simp [Memory.read, hv]
    · by_cases h : a' = a
      · simp [Memory.read, h]
      · simp [Memory.read, h]
  | cons c rest ih =>
    obtain ⟨k, b⟩ := c
    intro hm a a' v
    simp only [Memory.wfFrom, Bool.and_eq_true, decide_eq_true_eq] at hm
    obtain ⟨⟨h1, h2⟩, h3⟩ := hm
    unfold Memory.write
    split
    · next hak =>
      split
      · next hv =>
        by_cases h : a' = a
        · subst h; simp [Memory.read, hak, hv]
        · simp [h]
      · by_cases h : a' = a
        · subst h; simp [Memory.read]
        · by_cases h' : a' < a
          · have : a' < k := by omega
            simp [Memory.read, h, h', this]
          · simp [Memory.read, h, h']
    · next hak =>
      split
      · next hka =>
        subst hka
        split
        · next hv =>
          by_cases h : a' = a
          · subst h; simp [hv, read_below h3]
          · by_cases h' : a' < a
            · simp [Memory.read, h, h', read_below h3 (show a' < a + 1 by omega)]
            · simp [Memory.read, h, h']
        · by_cases h : a' = a
          · subst h; simp [Memory.read]
          · simp [Memory.read, h]
      · next hka =>
        by_cases h : a' < k
        · have : a' ≠ a := by omega
          simp [Memory.read, h, this]
        · by_cases h' : a' = k
          · have : a' ≠ a := by omega
            subst h'; simp [Memory.read, this]
          · simp [Memory.read, h, h', ih h3 a a' v]

theorem read_write {m : Memory} (h : Memory.wf m = true) (a a' : Nat) (v : Byte) :
    Memory.read (Memory.write m a v) a' = if a' = a then v else Memory.read m a' :=
  read_write_from h a a' v

theorem fits_write {size a : Nat} {v : Byte} (ha : a < size) :
    ∀ {m : Memory}, Memory.fits size m = true → Memory.fits size (Memory.write m a v) = true := by
  intro m
  induction m with
  | nil => intro _; unfold Memory.write; split <;> simp [Memory.fits, ha]
  | cons c rest ih =>
    obtain ⟨k, b⟩ := c
    intro hm
    simp only [Memory.fits, Bool.and_eq_true, decide_eq_true_eq] at hm
    unfold Memory.write
    split
    · split <;> simp [Memory.fits, ha, hm]
    · split
      · split <;> simp [Memory.fits, ha, hm]
      · simp [Memory.fits, hm, ih hm.2]

/-! ### Several bytes -/

theorem wf_writeBytes {m : Memory} (h : Memory.wf m = true) (off n : Nat) (v : Word) :
    Memory.wf (writeBytes m off n v) = true := by
  induction n generalizing m off v with
  | zero => exact h
  | succ n ih => exact ih (wf_write h _ _) _ _

theorem fits_writeBytes {size : Nat} {m : Memory} (h : Memory.fits size m = true) (off n : Nat) (v : Word)
    (hb : off + n ≤ size) : Memory.fits size (writeBytes m off n v) = true := by
  induction n generalizing m off v with
  | zero => exact h
  | succ n ih => exact ih (fits_write (by omega) h) _ _ (by omega)

/-- What a store reads after `n` bytes are written: byte `j` of the value inside the range, the old byte outside. -/
theorem read_writeBytes {m : Memory} (h : Memory.wf m = true) (off n : Nat) (v : Word) (a : Nat) :
    Memory.read (writeBytes m off n v) a =
      if off ≤ a ∧ a < off + n then (v >>> (8 * (a - off))).setWidth 8 else Memory.read m a := by
  induction n generalizing m off v with
  | zero => simp [writeBytes]
  | succ n ih =>
    rw [writeBytes, ih (wf_write h _ _), read_write h]
    by_cases h1 : a = off
    · subst h1; simp
    · by_cases h2 : off + 1 ≤ a ∧ a < off + 1 + n
      · have h3 : off ≤ a ∧ a < off + (n + 1) := by omega
        have h4 : 8 * (a - off) = 8 + 8 * (a - (off + 1)) := by omega
        simp only [h2, h3, and_self, if_true, h4, BitVec.shiftRight_add]
      · have h3 : ¬ (off ≤ a ∧ a < off + (n + 1)) := by omega
        simp only [h2, h3, if_false, h1]

/-- Outside the bytes written, a store reads as before. -/
theorem read_writeBytes_outside {m : Memory} (h : Memory.wf m = true) {off n a : Nat} (v : Word)
    (ha : a < off ∨ off + n ≤ a) : Memory.read (writeBytes m off n v) a = Memory.read m a := by
  rw [read_writeBytes h, if_neg (by omega)]

/-- The mathematical little-endian value of `n` bytes. -/
def bytesValue (m : Memory) (off : Nat) : Nat → Nat
  | 0 => 0
  | n + 1 => (Memory.read m off).toNat + 256 * bytesValue m (off + 1) n

theorem bytesValue_lt (m : Memory) (off n : Nat) : bytesValue m off n < 256 ^ n := by
  induction n generalizing off with
  | zero => simp [bytesValue]
  | succ n ih =>
    have := ih (off + 1)
    have := (Memory.read m off).isLt
    simp only [bytesValue, pow_succ]
    omega

/-- The same value as a sum over the bytes. -/
theorem bytesValue_eq_sum (m : Memory) (off n : Nat) :
    bytesValue m off n = ∑ j ∈ Finset.range n, (Memory.read m (off + j)).toNat * 256 ^ j := by
  induction n generalizing off with
  | zero => rfl
  | succ n ih =>
    rw [Finset.sum_range_succ', bytesValue, ih (off + 1), Finset.mul_sum, Nat.add_comm]
    simp only [Nat.add_zero, pow_zero, mul_one]
    congr 1
    apply Finset.sum_congr rfl
    intro j _
    rw [pow_succ, show off + (j + 1) = off + 1 + j by omega]
    ring

/-- `readBytes` is the little-endian sum, for a word or less. -/
theorem readBytes_toNat (m : Memory) (off n : Nat) (hn : n ≤ 4) : (readBytes m off n).toNat = bytesValue m off n := by
  induction n generalizing off with
  | zero => rfl
  | succ n ih =>
    have h1 := bytesValue_lt m (off + 1) n
    have h2 := (Memory.read m off).isLt
    have h3 : 256 ^ n ≤ 256 ^ 3 := Nat.pow_le_pow_right (by norm_num) (by omega)
    rw [readBytes, BitVec.toNat_or, BitVec.toNat_shiftLeft, ih _ (by omega), bytesValue,
      BitVec.toNat_setWidth, Nat.mod_eq_of_lt (by omega), Nat.shiftLeft_eq, Nat.mod_eq_of_lt (by omega), Nat.or_comm,
      Nat.mul_comm, Nat.add_comm, ← Nat.two_pow_add_eq_or_of_lt (i := 8) h2]
    omega

/-- Equal bytes, equal values. -/
theorem readBytes_congr {m m' : Memory} {off n : Nat} (h : ∀ j, j < n → Memory.read m' (off + j) = Memory.read m (off + j)) :
    readBytes m' off n = readBytes m off n := by
  induction n generalizing off with
  | zero => rfl
  | succ n ih =>
    have h0 := h 0 (by omega)
    have := ih (off := off + 1) (fun j hj => by have := h (j + 1) (by omega); rwa [show off + (j + 1) = off + 1 + j by omega] at this)
    simp only [readBytes, this]
    simpa using congrArg (fun b : Byte => b.setWidth 32 ||| readBytes m (off + 1) n <<< 8) h0

/-- Reading back the bytes just written gives the value's low bytes. -/
theorem readBytes_writeBytes {m : Memory} (h : Memory.wf m = true) (off : Nat) (v : Word) :
    readBytes (writeBytes m off 4 v) off 4 = v := by
  simp only [readBytes, read_writeBytes h]
  simp only [show off + 1 + 1 = off + 2 by omega, show off + 2 + 1 = off + 3 by omega]
  rw [if_pos (by omega), if_pos (by omega), if_pos (by omega), if_pos (by omega)]
  simp only [Nat.sub_self, show off + 1 - off = 1 by omega, show off + 2 - off = 2 by omega,
    show off + 3 - off = 3 by omega]
  apply BitVec.eq_of_getLsbD_eq
  intro i hi
  interval_cases i <;> simp

/-! ### Filling a store -/

theorem wfFrom_ofBytesFrom (bs : List Byte) (off : Nat) : Memory.wfFrom off (Memory.ofBytesFrom off bs) = true := by
  induction bs generalizing off with
  | nil => rfl
  | cons b bs ih =>
    unfold Memory.ofBytesFrom
    split
    · exact wfFrom_mono (by omega) (ih (off + 1))
    · next hb => simp [Memory.wfFrom, hb, ih]

theorem wf_ofBytes (bs : List Byte) : Memory.wf (Memory.ofBytes bs) = true := wfFrom_ofBytesFrom bs 0

theorem fits_ofBytesFrom (bs : List Byte) (off size : Nat) (h : off + bs.length ≤ size) :
    Memory.fits size (Memory.ofBytesFrom off bs) = true := by
  induction bs generalizing off with
  | nil => rfl
  | cons b bs ih =>
    simp only [List.length_cons] at h
    unfold Memory.ofBytesFrom
    split
    · exact ih _ (by omega)
    · have : off < size := by omega
      simp [Memory.fits, this, ih (off + 1) (by omega)]

theorem read_ofBytesFrom (bs : List Byte) (off a : Nat) (h : off ≤ a) :
    Memory.read (Memory.ofBytesFrom off bs) a = bs.getD (a - off) Memory.blank := by
  induction bs generalizing off with
  | nil => simp [Memory.ofBytesFrom, Memory.read]
  | cons b bs ih =>
    unfold Memory.ofBytesFrom
    split
    · next hb =>
      by_cases ha : a = off
      · subst ha
        rw [read_below (wfFrom_ofBytesFrom bs (a + 1)) (by omega)]
        simp [hb]
      · rw [ih (off + 1) (by omega), show a - off = (a - (off + 1)) + 1 by omega]
        simp
    · by_cases ha : a = off
      · subst ha; simp [Memory.read]
      · have : ¬ a < off := by omega
        simp only [Memory.read, this, ha, if_false]
        rw [ih (off + 1) (by omega), show a - off = (a - (off + 1)) + 1 by omega]
        simp

/-- A filled store reads as the sequence it was filled from. -/
theorem read_ofBytes (bs : List Byte) (a : Nat) : Memory.read (Memory.ofBytes bs) a = bs.getD a Memory.blank := by
  exact read_ofBytesFrom bs 0 a (Nat.zero_le a)

theorem ofBytes_replicate_blank (n : Nat) : Memory.ofBytes (List.replicate n Memory.blank) = [] := by
  have : ∀ off, Memory.ofBytesFrom off (List.replicate n Memory.blank) = [] := by
    induction n with
    | zero => intro _; rfl
    | succ n ih => intro off; simp [List.replicate_succ, Memory.ofBytesFrom, ih]
  exact this 0

end Sys2Proof.Machine
end

