-- ==== Sys2Proof/Laws/State.lean ====
section
/-! SUPPORT. One lemma per field per update, so that no proof unfolds a record update. -/

namespace Sys2Proof.Machine

variable (s : State)

@[simp] theorem State.setReg_gpr (r : RegIndex) (v : Word) : (s.setReg r v).gpr = writeGpr s.gpr r v := rfl
@[simp] theorem State.setReg_pc (r : RegIndex) (v : Word) : (s.setReg r v).pc = s.pc := rfl
@[simp] theorem State.setReg_cop0 (r : RegIndex) (v : Word) : (s.setReg r v).cop0 = s.cop0 := rfl
@[simp] theorem State.setReg_lq0 (r : RegIndex) (v : Word) : (s.setReg r v).lq0 = s.lq0 := rfl
@[simp] theorem State.setReg_lq1 (r : RegIndex) (v : Word) : (s.setReg r v).lq1 = s.lq1 := rfl
@[simp] theorem State.setReg_bq0 (r : RegIndex) (v : Word) : (s.setReg r v).bq0 = s.bq0 := rfl
@[simp] theorem State.setReg_bq1 (r : RegIndex) (v : Word) : (s.setReg r v).bq1 = s.bq1 := rfl
@[simp] theorem State.setReg_ram (r : RegIndex) (v : Word) : (s.setReg r v).ram = s.ram := rfl
@[simp] theorem State.setReg_bios (r : RegIndex) (v : Word) : (s.setReg r v).bios = s.bios := rfl
@[simp] theorem State.setReg_halt (r : RegIndex) (v : Word) : (s.setReg r v).halt = s.halt := rfl
@[simp] theorem State.setReg_config (r : RegIndex) (v : Word) : (s.setReg r v).config = s.config := rfl

@[simp] theorem State.putControl_gpr (r : RegIndex) (v : Word) : (s.putControl r v).gpr = s.gpr := rfl
@[simp] theorem State.putControl_pc (r : RegIndex) (v : Word) : (s.putControl r v).pc = s.pc := rfl
@[simp] theorem State.putControl_cop0 (r : RegIndex) (v : Word) : (s.putControl r v).cop0 = s.cop0.setIfInBounds r.toNat v := rfl
@[simp] theorem State.putControl_lq0 (r : RegIndex) (v : Word) : (s.putControl r v).lq0 = s.lq0 := rfl
@[simp] theorem State.putControl_lq1 (r : RegIndex) (v : Word) : (s.putControl r v).lq1 = s.lq1 := rfl
@[simp] theorem State.putControl_bq0 (r : RegIndex) (v : Word) : (s.putControl r v).bq0 = s.bq0 := rfl
@[simp] theorem State.putControl_bq1 (r : RegIndex) (v : Word) : (s.putControl r v).bq1 = s.bq1 := rfl
@[simp] theorem State.putControl_ram (r : RegIndex) (v : Word) : (s.putControl r v).ram = s.ram := rfl
@[simp] theorem State.putControl_bios (r : RegIndex) (v : Word) : (s.putControl r v).bios = s.bios := rfl
@[simp] theorem State.putControl_halt (r : RegIndex) (v : Word) : (s.putControl r v).halt = s.halt := rfl
@[simp] theorem State.putControl_config (r : RegIndex) (v : Word) : (s.putControl r v).config = s.config := rfl

@[simp] theorem State.scheduleLoad_gpr (r : RegIndex) (v : Word) : (s.scheduleLoad r v).gpr = s.gpr := rfl
@[simp] theorem State.scheduleLoad_pc (r : RegIndex) (v : Word) : (s.scheduleLoad r v).pc = s.pc := rfl
@[simp] theorem State.scheduleLoad_cop0 (r : RegIndex) (v : Word) : (s.scheduleLoad r v).cop0 = s.cop0 := rfl
@[simp] theorem State.scheduleLoad_lq0 (r : RegIndex) (v : Word) : (s.scheduleLoad r v).lq0 = s.lq0 := rfl
@[simp] theorem State.scheduleLoad_lq1 (r : RegIndex) (v : Word) : (s.scheduleLoad r v).lq1 = some ⟨r, v⟩ := rfl
@[simp] theorem State.scheduleLoad_bq0 (r : RegIndex) (v : Word) : (s.scheduleLoad r v).bq0 = s.bq0 := rfl
@[simp] theorem State.scheduleLoad_bq1 (r : RegIndex) (v : Word) : (s.scheduleLoad r v).bq1 = s.bq1 := rfl
@[simp] theorem State.scheduleLoad_ram (r : RegIndex) (v : Word) : (s.scheduleLoad r v).ram = s.ram := rfl
@[simp] theorem State.scheduleLoad_bios (r : RegIndex) (v : Word) : (s.scheduleLoad r v).bios = s.bios := rfl
@[simp] theorem State.scheduleLoad_halt (r : RegIndex) (v : Word) : (s.scheduleLoad r v).halt = s.halt := rfl
@[simp] theorem State.scheduleLoad_config (r : RegIndex) (v : Word) : (s.scheduleLoad r v).config = s.config := rfl

@[simp] theorem State.scheduleBranch_gpr (a : Word) : (s.scheduleBranch a).gpr = s.gpr := rfl
@[simp] theorem State.scheduleBranch_pc (a : Word) : (s.scheduleBranch a).pc = s.pc := rfl
@[simp] theorem State.scheduleBranch_cop0 (a : Word) : (s.scheduleBranch a).cop0 = s.cop0 := rfl
@[simp] theorem State.scheduleBranch_lq0 (a : Word) : (s.scheduleBranch a).lq0 = s.lq0 := rfl
@[simp] theorem State.scheduleBranch_lq1 (a : Word) : (s.scheduleBranch a).lq1 = s.lq1 := rfl
@[simp] theorem State.scheduleBranch_bq0 (a : Word) : (s.scheduleBranch a).bq0 = s.bq0 := rfl
@[simp] theorem State.scheduleBranch_bq1 (a : Word) : (s.scheduleBranch a).bq1 = some ⟨a⟩ := rfl
@[simp] theorem State.scheduleBranch_ram (a : Word) : (s.scheduleBranch a).ram = s.ram := rfl
@[simp] theorem State.scheduleBranch_bios (a : Word) : (s.scheduleBranch a).bios = s.bios := rfl
@[simp] theorem State.scheduleBranch_halt (a : Word) : (s.scheduleBranch a).halt = s.halt := rfl
@[simp] theorem State.scheduleBranch_config (a : Word) : (s.scheduleBranch a).config = s.config := rfl

@[simp] theorem State.invalidateLoad_gpr (r : RegIndex) : (s.invalidateLoad r).gpr = s.gpr := rfl
@[simp] theorem State.invalidateLoad_pc (r : RegIndex) : (s.invalidateLoad r).pc = s.pc := rfl
@[simp] theorem State.invalidateLoad_cop0 (r : RegIndex) : (s.invalidateLoad r).cop0 = s.cop0 := rfl
@[simp] theorem State.invalidateLoad_lq0 (r : RegIndex) : (s.invalidateLoad r).lq0 = dropLoad s.lq0 r := rfl
@[simp] theorem State.invalidateLoad_lq1 (r : RegIndex) : (s.invalidateLoad r).lq1 = s.lq1 := rfl
@[simp] theorem State.invalidateLoad_bq0 (r : RegIndex) : (s.invalidateLoad r).bq0 = s.bq0 := rfl
@[simp] theorem State.invalidateLoad_bq1 (r : RegIndex) : (s.invalidateLoad r).bq1 = s.bq1 := rfl
@[simp] theorem State.invalidateLoad_ram (r : RegIndex) : (s.invalidateLoad r).ram = s.ram := rfl
@[simp] theorem State.invalidateLoad_bios (r : RegIndex) : (s.invalidateLoad r).bios = s.bios := rfl
@[simp] theorem State.invalidateLoad_halt (r : RegIndex) : (s.invalidateLoad r).halt = s.halt := rfl
@[simp] theorem State.invalidateLoad_config (r : RegIndex) : (s.invalidateLoad r).config = s.config := rfl

@[simp] theorem State.directWrite_gpr (r : RegIndex) (v : Word) : (s.directWrite r v).gpr = writeGpr s.gpr r v := rfl
@[simp] theorem State.directWrite_pc (r : RegIndex) (v : Word) : (s.directWrite r v).pc = s.pc := rfl
@[simp] theorem State.directWrite_cop0 (r : RegIndex) (v : Word) : (s.directWrite r v).cop0 = s.cop0 := rfl
@[simp] theorem State.directWrite_lq0 (r : RegIndex) (v : Word) : (s.directWrite r v).lq0 = dropLoad s.lq0 r := rfl
@[simp] theorem State.directWrite_lq1 (r : RegIndex) (v : Word) : (s.directWrite r v).lq1 = s.lq1 := rfl
@[simp] theorem State.directWrite_bq0 (r : RegIndex) (v : Word) : (s.directWrite r v).bq0 = s.bq0 := rfl
@[simp] theorem State.directWrite_bq1 (r : RegIndex) (v : Word) : (s.directWrite r v).bq1 = s.bq1 := rfl
@[simp] theorem State.directWrite_ram (r : RegIndex) (v : Word) : (s.directWrite r v).ram = s.ram := rfl
@[simp] theorem State.directWrite_bios (r : RegIndex) (v : Word) : (s.directWrite r v).bios = s.bios := rfl
@[simp] theorem State.directWrite_halt (r : RegIndex) (v : Word) : (s.directWrite r v).halt = s.halt := rfl
@[simp] theorem State.directWrite_config (r : RegIndex) (v : Word) : (s.directWrite r v).config = s.config := rfl

@[simp] theorem State.commitLoad_gpr : s.commitLoad.gpr = commitGpr s.gpr s.lq0 := rfl
@[simp] theorem State.commitLoad_pc : s.commitLoad.pc = s.pc := rfl
@[simp] theorem State.commitLoad_cop0 : s.commitLoad.cop0 = s.cop0 := rfl
@[simp] theorem State.commitLoad_lq0 : s.commitLoad.lq0 = s.lq1 := rfl
@[simp] theorem State.commitLoad_lq1 : s.commitLoad.lq1 = none := rfl
@[simp] theorem State.commitLoad_bq0 : s.commitLoad.bq0 = s.bq0 := rfl
@[simp] theorem State.commitLoad_bq1 : s.commitLoad.bq1 = s.bq1 := rfl
@[simp] theorem State.commitLoad_ram : s.commitLoad.ram = s.ram := rfl
@[simp] theorem State.commitLoad_bios : s.commitLoad.bios = s.bios := rfl
@[simp] theorem State.commitLoad_halt : s.commitLoad.halt = s.halt := rfl
@[simp] theorem State.commitLoad_config : s.commitLoad.config = s.config := rfl

@[simp] theorem State.commitBranch_gpr : s.commitBranch.gpr = s.gpr := rfl
@[simp] theorem State.commitBranch_pc : s.commitBranch.pc = commitPc s.pc s.bq0 := rfl
@[simp] theorem State.commitBranch_cop0 : s.commitBranch.cop0 = s.cop0 := rfl
@[simp] theorem State.commitBranch_lq0 : s.commitBranch.lq0 = s.lq0 := rfl
@[simp] theorem State.commitBranch_lq1 : s.commitBranch.lq1 = s.lq1 := rfl
@[simp] theorem State.commitBranch_bq0 : s.commitBranch.bq0 = s.bq1 := rfl
@[simp] theorem State.commitBranch_bq1 : s.commitBranch.bq1 = none := rfl
@[simp] theorem State.commitBranch_ram : s.commitBranch.ram = s.ram := rfl
@[simp] theorem State.commitBranch_bios : s.commitBranch.bios = s.bios := rfl
@[simp] theorem State.commitBranch_halt : s.commitBranch.halt = s.halt := rfl
@[simp] theorem State.commitBranch_config : s.commitBranch.config = s.config := rfl

@[simp] theorem State.commitStep_gpr : s.commitStep.gpr = commitGpr s.gpr s.lq0 := rfl
@[simp] theorem State.commitStep_pc : s.commitStep.pc = commitPc s.pc s.bq0 := rfl
@[simp] theorem State.commitStep_cop0 : s.commitStep.cop0 = s.cop0 := rfl
@[simp] theorem State.commitStep_lq0 : s.commitStep.lq0 = s.lq1 := rfl
@[simp] theorem State.commitStep_lq1 : s.commitStep.lq1 = none := rfl
@[simp] theorem State.commitStep_bq0 : s.commitStep.bq0 = s.bq1 := rfl
@[simp] theorem State.commitStep_bq1 : s.commitStep.bq1 = none := rfl
@[simp] theorem State.commitStep_ram : s.commitStep.ram = s.ram := rfl
@[simp] theorem State.commitStep_bios : s.commitStep.bios = s.bios := rfl
@[simp] theorem State.commitStep_halt : s.commitStep.halt = s.halt := rfl
@[simp] theorem State.commitStep_config : s.commitStep.config = s.config := rfl

@[simp] theorem State.raise_gpr (c : Condition) (p : Phase) (a : Word) (w : Option Word) : (s.raise c p a w).gpr = s.gpr := rfl
@[simp] theorem State.raise_pc (c : Condition) (p : Phase) (a : Word) (w : Option Word) : (s.raise c p a w).pc = s.pc := rfl
@[simp] theorem State.raise_cop0 (c : Condition) (p : Phase) (a : Word) (w : Option Word) : (s.raise c p a w).cop0 = s.cop0 := rfl
@[simp] theorem State.raise_lq0 (c : Condition) (p : Phase) (a : Word) (w : Option Word) : (s.raise c p a w).lq0 = s.lq0 := rfl
@[simp] theorem State.raise_lq1 (c : Condition) (p : Phase) (a : Word) (w : Option Word) : (s.raise c p a w).lq1 = s.lq1 := rfl
@[simp] theorem State.raise_bq0 (c : Condition) (p : Phase) (a : Word) (w : Option Word) : (s.raise c p a w).bq0 = s.bq0 := rfl
@[simp] theorem State.raise_bq1 (c : Condition) (p : Phase) (a : Word) (w : Option Word) : (s.raise c p a w).bq1 = s.bq1 := rfl
@[simp] theorem State.raise_ram (c : Condition) (p : Phase) (a : Word) (w : Option Word) : (s.raise c p a w).ram = s.ram := rfl
@[simp] theorem State.raise_bios (c : Condition) (p : Phase) (a : Word) (w : Option Word) : (s.raise c p a w).bios = s.bios := rfl
@[simp] theorem State.raise_halt (c : Condition) (p : Phase) (a : Word) (w : Option Word) : (s.raise c p a w).halt = .faulted ⟨c, p, a, w⟩ := rfl
@[simp] theorem State.raise_config (c : Condition) (p : Phase) (a : Word) (w : Option Word) : (s.raise c p a w).config = s.config := rfl

@[simp] theorem State.raiseExecute_gpr (w : Word) (c : Condition) : (s.raiseExecute w c).gpr = s.gpr := rfl
@[simp] theorem State.raiseExecute_pc (w : Word) (c : Condition) : (s.raiseExecute w c).pc = s.pc := rfl
@[simp] theorem State.raiseExecute_cop0 (w : Word) (c : Condition) : (s.raiseExecute w c).cop0 = s.cop0 := rfl
@[simp] theorem State.raiseExecute_lq0 (w : Word) (c : Condition) : (s.raiseExecute w c).lq0 = s.lq0 := rfl
@[simp] theorem State.raiseExecute_lq1 (w : Word) (c : Condition) : (s.raiseExecute w c).lq1 = s.lq1 := rfl
@[simp] theorem State.raiseExecute_bq0 (w : Word) (c : Condition) : (s.raiseExecute w c).bq0 = s.bq0 := rfl
@[simp] theorem State.raiseExecute_bq1 (w : Word) (c : Condition) : (s.raiseExecute w c).bq1 = s.bq1 := rfl
@[simp] theorem State.raiseExecute_ram (w : Word) (c : Condition) : (s.raiseExecute w c).ram = s.ram := rfl
@[simp] theorem State.raiseExecute_bios (w : Word) (c : Condition) : (s.raiseExecute w c).bios = s.bios := rfl
@[simp] theorem State.raiseExecute_halt (w : Word) (c : Condition) : (s.raiseExecute w c).halt = .faulted ⟨c, .execute, s.fetchAddress, some w⟩ := rfl
@[simp] theorem State.raiseExecute_config (w : Word) (c : Condition) : (s.raiseExecute w c).config = s.config := rfl

@[simp] theorem State.raiseDecode_gpr (w : Word) : (s.raiseDecode w).gpr = s.gpr := rfl
@[simp] theorem State.raiseDecode_pc (w : Word) : (s.raiseDecode w).pc = s.pc := rfl
@[simp] theorem State.raiseDecode_cop0 (w : Word) : (s.raiseDecode w).cop0 = s.cop0 := rfl
@[simp] theorem State.raiseDecode_lq0 (w : Word) : (s.raiseDecode w).lq0 = s.lq0 := rfl
@[simp] theorem State.raiseDecode_lq1 (w : Word) : (s.raiseDecode w).lq1 = s.lq1 := rfl
@[simp] theorem State.raiseDecode_bq0 (w : Word) : (s.raiseDecode w).bq0 = s.bq0 := rfl
@[simp] theorem State.raiseDecode_bq1 (w : Word) : (s.raiseDecode w).bq1 = s.bq1 := rfl
@[simp] theorem State.raiseDecode_ram (w : Word) : (s.raiseDecode w).ram = s.ram := rfl
@[simp] theorem State.raiseDecode_bios (w : Word) : (s.raiseDecode w).bios = s.bios := rfl
@[simp] theorem State.raiseDecode_halt (w : Word) : (s.raiseDecode w).halt = .faulted ⟨.opcodeNotImplemented, .decode, s.fetchAddress, some w⟩ := rfl
@[simp] theorem State.raiseDecode_config (w : Word) : (s.raiseDecode w).config = s.config := rfl

@[simp] theorem State.raiseFetch_gpr (c : Condition) : (s.raiseFetch c).gpr = s.gpr := rfl
@[simp] theorem State.raiseFetch_pc (c : Condition) : (s.raiseFetch c).pc = s.pc := rfl
@[simp] theorem State.raiseFetch_cop0 (c : Condition) : (s.raiseFetch c).cop0 = s.cop0 := rfl
@[simp] theorem State.raiseFetch_lq0 (c : Condition) : (s.raiseFetch c).lq0 = s.lq0 := rfl
@[simp] theorem State.raiseFetch_lq1 (c : Condition) : (s.raiseFetch c).lq1 = s.lq1 := rfl
@[simp] theorem State.raiseFetch_bq0 (c : Condition) : (s.raiseFetch c).bq0 = s.bq0 := rfl
@[simp] theorem State.raiseFetch_bq1 (c : Condition) : (s.raiseFetch c).bq1 = s.bq1 := rfl
@[simp] theorem State.raiseFetch_ram (c : Condition) : (s.raiseFetch c).ram = s.ram := rfl
@[simp] theorem State.raiseFetch_bios (c : Condition) : (s.raiseFetch c).bios = s.bios := rfl
@[simp] theorem State.raiseFetch_halt (c : Condition) : (s.raiseFetch c).halt = .faulted ⟨c, .fetch, s.pc, none⟩ := rfl
@[simp] theorem State.raiseFetch_config (c : Condition) : (s.raiseFetch c).config = s.config := rfl

@[simp] theorem State.refuse_gpr (w : Word) (n : UnlistedName) : (s.refuse w n).gpr = s.gpr := rfl
@[simp] theorem State.refuse_pc (w : Word) (n : UnlistedName) : (s.refuse w n).pc = s.pc := rfl
@[simp] theorem State.refuse_cop0 (w : Word) (n : UnlistedName) : (s.refuse w n).cop0 = s.cop0 := rfl
@[simp] theorem State.refuse_lq0 (w : Word) (n : UnlistedName) : (s.refuse w n).lq0 = s.lq0 := rfl
@[simp] theorem State.refuse_lq1 (w : Word) (n : UnlistedName) : (s.refuse w n).lq1 = s.lq1 := rfl
@[simp] theorem State.refuse_bq0 (w : Word) (n : UnlistedName) : (s.refuse w n).bq0 = s.bq0 := rfl
@[simp] theorem State.refuse_bq1 (w : Word) (n : UnlistedName) : (s.refuse w n).bq1 = s.bq1 := rfl
@[simp] theorem State.refuse_ram (w : Word) (n : UnlistedName) : (s.refuse w n).ram = s.ram := rfl
@[simp] theorem State.refuse_bios (w : Word) (n : UnlistedName) : (s.refuse w n).bios = s.bios := rfl
@[simp] theorem State.refuse_halt (w : Word) (n : UnlistedName) : (s.refuse w n).halt = .refused ⟨s.fetchAddress, w, n⟩ := rfl
@[simp] theorem State.refuse_config (w : Word) (n : UnlistedName) : (s.refuse w n).config = s.config := rfl

@[simp] theorem State.advancePc_gpr : s.advancePc.gpr = s.gpr := rfl
@[simp] theorem State.advancePc_pc : s.advancePc.pc = s.pc + 4#32 := rfl
@[simp] theorem State.advancePc_cop0 : s.advancePc.cop0 = s.cop0 := rfl
@[simp] theorem State.advancePc_lq0 : s.advancePc.lq0 = s.lq0 := rfl
@[simp] theorem State.advancePc_lq1 : s.advancePc.lq1 = s.lq1 := rfl
@[simp] theorem State.advancePc_bq0 : s.advancePc.bq0 = s.bq0 := rfl
@[simp] theorem State.advancePc_bq1 : s.advancePc.bq1 = s.bq1 := rfl
@[simp] theorem State.advancePc_ram : s.advancePc.ram = s.ram := rfl
@[simp] theorem State.advancePc_bios : s.advancePc.bios = s.bios := rfl
@[simp] theorem State.advancePc_halt : s.advancePc.halt = s.halt := rfl
@[simp] theorem State.advancePc_config : s.advancePc.config = s.config := rfl

end Sys2Proof.Machine
end

