-- ==== Sys2Proof/Laws/Registers.lean ====
section
/-! SUPPORT. The register files: read after write, for the GPRs (R20, R21, R22) and the cop0 bank (R28, R29). -/

namespace Sys2Proof.Machine

@[simp] theorem readGpr_zero (g : Gprs) : readGpr g 0#5 = 0#32 := rfl

@[simp] theorem writeGpr_zero (g : Gprs) (v : Word) : writeGpr g 0#5 v = g := rfl

theorem readGpr_writeGpr_self (g : Gprs) {r : RegIndex} (v : Word) (h : r ≠ 0#5) :
    readGpr (writeGpr g r v) r = v := by
  have h0 : r.toNat ≠ 0 := fun e => h (BitVec.eq_of_toNat_eq e)
  have hb : r.toNat - 1 < 31 := by have := r.isLt; omega
  simp [readGpr, writeGpr, h, Vector.getD, hb]

theorem readGpr_writeGpr_ne (g : Gprs) {q r : RegIndex} (v : Word) (h : q ≠ r) :
    readGpr (writeGpr g r v) q = readGpr g q := by
  by_cases hr : r = 0#5
  · simp [writeGpr, hr]
  by_cases hq : q = 0#5
  · simp [hq]
  have h1 : r.toNat ≠ 0 := fun e => hr (BitVec.eq_of_toNat_eq e)
  have h2 : q.toNat ≠ 0 := fun e => hq (BitVec.eq_of_toNat_eq e)
  have h3 : r.toNat ≠ q.toNat := fun e => h (BitVec.eq_of_toNat_eq e.symm)
  have hne : r.toNat - 1 ≠ q.toNat - 1 := by omega
  have hb : q.toNat - 1 < 31 := by have := q.isLt; omega
  simp [readGpr, writeGpr, hr, hq, Vector.getD, hb, hne]

/-- What a register file reads after a write, whichever registers they are. -/
theorem readGpr_writeGpr (g : Gprs) (q r : RegIndex) (v : Word) :
    readGpr (writeGpr g r v) q = if q = r then (if r = 0#5 then 0#32 else v) else readGpr g q := by
  split
  · next h =>
    subst h
    split
    · next h0 => subst h0; rfl
    · next h0 => exact readGpr_writeGpr_self g v h0
  · next h => exact readGpr_writeGpr_ne g v h

/-- What a register file reads after a load slot commits. -/
theorem readGpr_commitGpr (g : Gprs) (q : RegIndex) (slot : Option LoadSlot) :
    readGpr (commitGpr g slot) q =
      match slot with
      | some l => if q = l.reg then (if l.reg = 0#5 then 0#32 else l.value) else readGpr g q
      | none => readGpr g q := by
  cases slot with
  | none => rfl
  | some l => exact readGpr_writeGpr g q l.reg l.value

/-- Dropping a load keeps a slot that targets another register, and only that. -/
theorem dropLoad_eq_filter (slot : Option LoadSlot) (r : RegIndex) :
    dropLoad slot r = slot.filter (fun l => l.reg ≠ r) := by
  cases slot with
  | none => rfl
  | some l => by_cases h : l.reg = r <;> simp [dropLoad, Option.filter, h]

@[simp] theorem getReg_zero (s : State) : s.getReg 0#5 = 0#32 := rfl

theorem getReg_eq_of_gpr {s t : State} (h : t.gpr = s.gpr) (q : RegIndex) : t.getReg q = s.getReg q := by
  simp [State.getReg, h]

theorem getReg_setReg (s : State) (q r : RegIndex) (v : Word) :
    (s.setReg r v).getReg q = if q = r then (if r = 0#5 then 0#32 else v) else s.getReg q :=
  readGpr_writeGpr s.gpr q r v

theorem getReg_directWrite (s : State) (q r : RegIndex) (v : Word) :
    (s.directWrite r v).getReg q = if q = r then (if r = 0#5 then 0#32 else v) else s.getReg q :=
  readGpr_writeGpr s.gpr q r v

theorem getControl_eq_of_cop0 {s t : State} (h : t.cop0 = s.cop0) (q : RegIndex) :
    t.getControl q = s.getControl q := by
  simp [State.getControl, h]

theorem getControl_putControl (s : State) (q r : RegIndex) (v : Word) :
    (s.putControl r v).getControl q = if q = r then v else s.getControl q := by
  have hb : q.toNat < 32 := q.isLt
  by_cases h : q = r
  · subst h; simp [State.getControl, Vector.getD, hb]
  · have hne : r.toNat ≠ q.toNat := fun e => h (BitVec.eq_of_toNat_eq e.symm)
    simp [State.getControl, Vector.getD, hb, h, hne]

/-- setControl answers a next state exactly for an accepted write (R29). -/
theorem setControl_ok {s t : State} {r : RegIndex} {v : Word} :
    s.setControl r v = .ok t ↔ controlWriteAccepted r v = true ∧ t = s.putControl r v := by
  unfold State.setControl
  split
  · next h => simp only [Except.ok.injEq, h, true_and]; exact eq_comm
  · next h => simp [h]

theorem controlWriteAccepted_iff (r : RegIndex) (v : Word) :
    controlWriteAccepted r v = true ↔ r = 12#5 ∨ v = 0#32 := by
  simp [controlWriteAccepted, statusIndex]

end Sys2Proof.Machine
end

