-- ==== Sys2Proof/Laws/Ops.lean ====
section
/-! SUPPORT. One lemma per shared operation: everything it can do. -/

namespace Sys2Proof.Machine

/-- `A + 4` is the pc of the execute phase (R25). -/
@[simp] theorem delaySlotAddress_eq (s : State) : delaySlotAddress s = s.pc := by
  simp [delaySlotAddress, State.fetchAddress]

/-- `A + 8` is the pc of the execute phase plus 4 (R25, R232). -/
@[simp] theorem linkValue_eq (s : State) : linkValue s = s.pc + 4#32 := by
  unfold linkValue State.fetchAddress
  rw [show (8#32 : Word) = 4#32 + 4#32 from rfl, ← BitVec.add_assoc, BitVec.sub_add_cancel]

@[simp] theorem fetchAddress_advancePc (s : State) : s.advancePc.fetchAddress = s.pc := by
  simp [State.fetchAddress]

@[simp] theorem getReg_advancePc (s : State) (q : RegIndex) : s.advancePc.getReg q = s.getReg q := rfl

@[simp] theorem getControl_advancePc (s : State) (q : RegIndex) : s.advancePc.getControl q = s.getControl q := rfl

/-! ### Translation and memory -/

/-- `resolve` answers the first window that holds the address (R53). -/
theorem resolve_cons (win : Window) (rest : List Window) (a : Word) :
    resolve (win :: rest) a =
      if win.base ≤ a.toNat ∧ a.toNat ≤ win.base + win.size then some ⟨win.segment, a.toNat - win.base⟩
      else resolve rest a := rfl

/-- In a map of pairwise disjoint windows each window answers for its own addresses (R53, R55). -/
theorem resolve_of_disjoint {map : List Window}
    (hd : ∀ u ∈ map, ∀ v ∈ map, u = v ∨ u.base + u.size < v.base ∨ v.base + v.size < u.base) {win : Window} (hw : win ∈ map)
    {a : Word} (h1 : win.base ≤ a.toNat) (h2 : a.toNat ≤ win.base + win.size) :
    resolve map a = some ⟨win.segment, a.toNat - win.base⟩ := by
  induction map with
  | nil => cases hw
  | cons u us ih =>
    rw [resolve_cons]
    split
    · next hu =>
      rcases hd u (by simp) win hw with h | h | h
      · rw [h]
      · omega
      · omega
    · next hu =>
      rcases List.mem_cons.mp hw with rfl | hw
      · exact absurd ⟨h1, h2⟩ hu
      · exact ih (fun x hx y hy => hd x (by simp [hx]) y (by simp [hy])) hw

/-- Everything `MemRead` can answer, by where the address resolves (R57). -/
theorem memRead_eq (s : State) (a : Word) (n : Width) :
    s.memRead a n =
      match resolve s.config.memoryMap a with
      | none => .error (.addressNotMapped a)
      | some p =>
        match p.segment with
        | .ram => if ramSize < p.offset + widthBytes n then .error (.outOfBounds a p.offset (widthBytes n))
            else .ok (readBytes s.ram p.offset (widthBytes n))
        | .bios => if biosSize < p.offset + widthBytes n then .error (.outOfBounds a p.offset (widthBytes n))
            else .ok (readBytes s.bios p.offset (widthBytes n))
        | .hwreg => .ok 0#32
        | .cachectl => .ok 0#32 := by
  unfold State.memRead
  split <;> simp_all [boundedRead]

/-- `MemRead` at no window (R54). -/
theorem memRead_unmapped {s : State} {a : Word} (h : resolve s.config.memoryMap a = none) (n : Width) :
    s.memRead a n = .error (.addressNotMapped a) := by
  rw [memRead_eq, h]

/-- `MemRead` of RAM (R57, R59). -/
theorem memRead_ram {s : State} {a : Word} {off : Nat} (h : resolve s.config.memoryMap a = some ⟨.ram, off⟩) (n : Width) :
    s.memRead a n = if ramSize < off + widthBytes n then .error (.outOfBounds a off (widthBytes n))
      else .ok (readBytes s.ram off (widthBytes n)) := by
  rw [memRead_eq, h]

/-- `MemRead` of the BIOS (R57, R59). -/
theorem memRead_bios {s : State} {a : Word} {off : Nat} (h : resolve s.config.memoryMap a = some ⟨.bios, off⟩) (n : Width) :
    s.memRead a n = if biosSize < off + widthBytes n then .error (.outOfBounds a off (widthBytes n))
      else .ok (readBytes s.bios off (widthBytes n)) := by
  rw [memRead_eq, h]

/-- `MemWrite` at no window (R54). -/
theorem memWrite_unmapped {s : State} {a : Word} (h : resolve s.config.memoryMap a = none) (n : Width) (v : Word) :
    s.memWrite a n v = .error (.addressNotMapped a) := by
  unfold State.memWrite
  rw [h]

/-- `MemWrite` of RAM (R58, R59). -/
theorem memWrite_ram {s : State} {a : Word} {off : Nat} (h : resolve s.config.memoryMap a = some ⟨.ram, off⟩) (n : Width)
    (v : Word) : s.memWrite a n v = if ramSize < off + widthBytes n then .error (.outOfBounds a off (widthBytes n))
      else .ok { s with ram := writeBytes s.ram off (widthBytes n) v } := by
  unfold State.memWrite
  rw [h]

/-- `MemWrite` of RAM inside its bounds. -/
theorem memWrite_ram_inside {s : State} {a : Word} {off : Nat} {n : Width} (h : resolve s.config.memoryMap a = some ⟨.ram, off⟩)
    (hb : off + widthBytes n ≤ ramSize) (v : Word) :
    s.memWrite a n v = .ok { s with ram := writeBytes s.ram off (widthBytes n) v } := by
  rw [memWrite_ram h]
  exact if_neg (by omega)

/-- `MemWrite` past the end of RAM. -/
theorem memWrite_ram_outside {s : State} {a : Word} {off : Nat} {n : Width} (h : resolve s.config.memoryMap a = some ⟨.ram, off⟩)
    (hb : ramSize < off + widthBytes n) (v : Word) : s.memWrite a n v = .error (.outOfBounds a off (widthBytes n)) := by
  rw [memWrite_ram h]
  exact if_pos hb

/-- `MemRead` of RAM inside its bounds. -/
theorem memRead_ram_inside {s : State} {a : Word} {off : Nat} {n : Width} (h : resolve s.config.memoryMap a = some ⟨.ram, off⟩)
    (hb : off + widthBytes n ≤ ramSize) : s.memRead a n = .ok (readBytes s.ram off (widthBytes n)) := by
  rw [memRead_ram h]
  exact if_neg (by omega)

/-- `MemWrite` of the BIOS or of a stub does nothing (R58, R61, R62). -/
theorem memWrite_discarded {s : State} {a : Word} {p : SegmentAndOffset} (h : resolve s.config.memoryMap a = some p)
    (hp : p.segment ≠ .ram) (n : Width) (v : Word) : s.memWrite a n v = .ok s := by
  unfold State.memWrite
  rw [h]
  obtain ⟨seg, off⟩ := p
  cases seg <;> first | rfl | exact absurd rfl hp

/-- `MemRead` depends on the stores and the parameters alone. -/
theorem memRead_congr {s t : State} (hr : t.ram = s.ram) (hb : t.bios = s.bios) (hc : t.config = s.config) (a : Word)
    (n : Width) : t.memRead a n = s.memRead a n := by
  rw [memRead_eq, memRead_eq, hr, hb, hc]

/-- A condition `MemRead` raises is AddressNotMapped or OutOfBounds, of that address (R76). -/
theorem memRead_error {s : State} {a : Word} {n : Width} {c : Condition} (h : s.memRead a n = .error c) :
    c = .addressNotMapped a ∨ ∃ off, c = .outOfBounds a off (widthBytes n) := by
  rw [memRead_eq] at h
  split at h
  · cases h; exact .inl rfl
  · split at h <;> (try split at h) <;> cases h
    · exact .inr ⟨_, rfl⟩
    · exact .inr ⟨_, rfl⟩

/-- What `MemWrite` does when it answers: nothing, or a write of RAM inside its bounds (R58). -/
theorem memWrite_ok {s t : State} {a : Word} {n : Width} {v : Word} (h : s.memWrite a n v = .ok t) :
    (t = s ∧ ∃ p, resolve s.config.memoryMap a = some p ∧ p.segment ≠ .ram) ∨
      ∃ off, resolve s.config.memoryMap a = some ⟨.ram, off⟩ ∧ off + widthBytes n ≤ ramSize ∧
        t = { s with ram := writeBytes s.ram off (widthBytes n) v } := by
  unfold State.memWrite at h
  split at h
  · cases h
  · next hr => cases h; exact .inl ⟨rfl, _, hr, by simp⟩
  · next hr => cases h; exact .inl ⟨rfl, _, hr, by simp⟩
  · next hr => cases h; exact .inl ⟨rfl, _, hr, by simp⟩
  · next off hr =>
    split at h
    · cases h
    · cases h; exact .inr ⟨off, hr, by omega, rfl⟩

/-- A condition `MemWrite` raises is AddressNotMapped or OutOfBounds, of that address (R76). -/
theorem memWrite_error {s : State} {a : Word} {n : Width} {v : Word} {c : Condition}
    (h : s.memWrite a n v = .error c) : c = .addressNotMapped a ∨ ∃ off, c = .outOfBounds a off (widthBytes n) := by
  unfold State.memWrite at h
  split at h
  · cases h; exact .inl rfl
  · cases h
  · cases h
  · cases h
  · split at h
    · cases h; exact .inr ⟨_, rfl⟩
    · cases h

/-! ### What a meaning answers -/

/-- The state after an effect of registers and queues alone. -/
def State.applied (s : State) (direct : Option (RegIndex × Word)) (load : Option LoadSlot)
    (branch : Option BranchSlot) : State :=
  { s with
    gpr := match direct with | some (r, v) => writeGpr s.gpr r v | none => s.gpr
    lq0 := match direct with | some (r, _) => dropLoad s.lq0 r | none => s.lq0
    lq1 := load.or s.lq1
    bq1 := branch.or s.bq1 }

/-- An applied effect is the effect claims speak of. -/
theorem effect_applied (s : State) (direct : Option (RegIndex × Word)) (load : Option LoadSlot)
    (branch : Option BranchSlot) : Effect s (s.applied direct load branch) direct load branch := by
  refine ⟨fun q => ?_, ?_, rfl, rfl, rfl, fun _ => rfl, fun _ => ⟨rfl, rfl⟩, rfl, rfl, rfl⟩
  · rcases direct with _ | ⟨r, v⟩
    · rfl
    · exact readGpr_writeGpr s.gpr q r v
  · rcases direct with _ | ⟨r, v⟩
    · rfl
    · exact dropLoad_eq_filter s.lq0 r

theorem writeResult_eq (s : State) (r : RegIndex) (v : Word) :
    writeResult s r v = .next (s.applied (some (r, v)) none none) := rfl

theorem branchIf_eq (s : State) (taken : Bool) (a : Word) :
    s.branchIf taken a = s.applied none none (if taken then some ⟨a⟩ else none) := by
  cases taken <;> rfl

theorem directWrite_scheduleBranch_eq (s : State) (r : RegIndex) (v a : Word) :
    (s.directWrite r v).scheduleBranch a = s.applied (some (r, v)) none (some ⟨a⟩) := rfl

theorem directWrite_branchIf_eq (s : State) (r : RegIndex) (v : Word) (taken : Bool) (a : Word) :
    (s.directWrite r v).branchIf taken a = s.applied (some (r, v)) none (if taken then some ⟨a⟩ else none) := by
  cases taken <;> rfl

theorem writeChecked_eq (s : State) (w : Word) (overflow : Bool) (r : RegIndex) (v : Word) :
    writeChecked s w overflow r v =
      .next (if overflow then s.raiseExecute w .arithmeticOverflow else s.applied (some (r, v)) none none) := by
  cases overflow <;> rfl

/-- A load answers the raised condition, or the schedule of what it read (R201). -/
theorem loadFrom_eq (s : State) (w : Word) (r : RegIndex) (ea : Word) (n : Width) (f : Word → Word) :
    loadFrom s w r ea n f =
      .next (match s.memRead ea n with
        | .error c => s.raiseExecute w c
        | .ok m => s.applied none (some ⟨r, f m⟩) none) := by
  unfold loadFrom
  cases s.memRead ea n <;> rfl

/-- A store answers itself under isolation, the raised condition, or what `MemWrite` leaves (R206, R207). -/
theorem storeTo_eq (s : State) (w : Word) (ea : Word) (n : Width) (v : Word) :
    storeTo s w ea n v =
      .next (if s.isolated then s else
        match s.memWrite ea n v with
        | .error c => s.raiseExecute w c
        | .ok t => t) := by
  unfold storeTo
  split
  · rfl
  · cases s.memWrite ea n v <;> rfl

/-- A store under cache isolation (R207). -/
theorem storeTo_isolated {s : State} (h : s.isolated = true) (w : Word) (ea : Word) (n : Width) (v : Word) :
    storeTo s w ea n v = .next s := by
  rw [storeTo_eq, h]
  rfl

/-- A store whose write answers (R206). -/
theorem storeTo_of_ok {s t : State} {ea v : Word} {n : Width} (h : s.isolated = false) (hw : s.memWrite ea n v = .ok t)
    (w : Word) : storeTo s w ea n v = .next t := by
  rw [storeTo_eq, h, hw]
  rfl

/-- A store whose write raises (R206). -/
theorem storeTo_of_error {s : State} {ea v : Word} {n : Width} {c : Condition} (h : s.isolated = false)
    (hw : s.memWrite ea n v = .error c) (w : Word) : storeTo s w ea n v = .next (s.raiseExecute w c) := by
  rw [storeTo_eq, h, hw]
  rfl

/-- The bytes a store writes, as claims speak of them. -/
theorem storeEffect_write {s : State} (hwf : Memory.wf s.ram = true) (off n : Nat) (v : Word) :
    StoreEffect s { s with ram := writeBytes s.ram off n v } off n v := by
  refine ⟨fun j hj => ?_, fun k hk => read_writeBytes_outside hwf v hk, fun _ => rfl, fun _ => rfl, fun _ => rfl,
    ⟨rfl, rfl, rfl, rfl⟩, rfl, rfl, rfl⟩
  simp only [read_writeBytes hwf]
  rw [if_pos (by omega)]
  apply BitVec.eq_of_getLsbD_eq
  intro i hi
  simp [hi]

/-- The sign-extended immediate as a number modulo 2^32. -/
theorem simm_toNat (imm : BitVec 16) : ((simm imm).toNat : Int) = imm.toInt % 4294967296 := by
  have h := BitVec.toInt_signExtend_of_le (x := imm) (v := 32) (by decide)
  have hb := (simm imm).isLt
  unfold simm at *
  rw [BitVec.toInt_eq_toNat_cond] at h
  split at h <;> omega

/-! ### The end of a step -/

theorem finish_of_running {s : State} (h : s.halt = .running) : s.finish = s.commitStep := by
  simp [State.finish, h]

theorem finish_of_not_running {s : State} (h : s.halt ≠ .running) : s.finish = s := by
  unfold State.finish
  split
  · next h' => exact absurd h' h
  · rfl
  · rfl

theorem finish_halt (s : State) : s.finish.halt = s.halt := by
  by_cases h : s.halt = .running
  · rw [finish_of_running h]; rfl
  · rw [finish_of_not_running h]

theorem getReg_commitStep (s : State) (q : RegIndex) :
    s.commitStep.getReg q =
      match s.lq0 with
      | some l => if q = l.reg then (if l.reg = 0#5 then 0#32 else l.value) else s.getReg q
      | none => s.getReg q :=
  readGpr_commitGpr s.gpr q s.lq0

end Sys2Proof.Machine
end

