-- ==== Sys2Proof/Laws/Exec.lean ====
section
/-! SUPPORT. Once and for all: what `exec` answers, and what `step` answers. Every claim over all instructions follows from these
two inversions, and never unfolds a meaning. -/

namespace Sys2Proof.Machine

/-- Everything an instruction can do to the state it executes in. -/
inductive ExecCase (i : Instr) (s : State) : State → Prop
  /-- Registers and queues: the written registers are those of R24, and the target is the instruction's own. -/
  | applied (direct : Option (RegIndex × Word)) (load : Option LoadSlot) (branch : Option BranchSlot)
      (hd : direct.map Prod.fst = i.directDest) (hl : load.map LoadSlot.reg = i.delayedDest)
      (hb : branch.map BranchSlot.target = i.scheduledTarget s) (hu : i.unlistedName = none) :
      ExecCase i s (s.applied direct load branch)
  /-- A fatal condition of the execute phase. -/
  | raised (c : Condition)
      (hc : c = .arithmeticOverflow ∨ (∃ r v, c = .controlRegisterWriteRejected r v) ∨ (∃ a, c = .addressNotMapped a) ∨
        ∃ a off n, c = .outOfBounds a off n)
      (hu : i.unlistedName = none) : ExecCase i s (s.raiseExecute (encode i) c)
  /-- An Unlisted encoding. -/
  | unlisted (n : UnlistedName) (hn : i.unlistedName = some n) : ExecCase i s (s.unlisted (encode i) n)
  /-- An accepted MTC0. -/
  | control (rt rd : RegIndex) (low : BitVec 11) (hi : i = .mtc0 rt rd low) (ha : rd = 12#5 ∨ s.getReg rt = 0#32) :
      ExecCase i s (s.putControl rd (s.getReg rt))
  /-- A store that reaches RAM. -/
  | stored (rt rs : RegIndex) (imm : BitVec 16) (off n : Nat) (v : Word)
      (hi : i = .sb rt rs imm ∨ i = .sh rt rs imm ∨ i = .sw rt rs imm) (hs : s.isolated = false) (hb : off + n ≤ ramSize) :
      ExecCase i s { s with ram := writeBytes s.ram off n v }

/-- A branch that is taken on a condition schedules its target exactly then. -/
theorem map_target_if {c : Bool} {p : Prop} [Decidable p] {a : Word} (h : c = true ↔ p) :
    (if c then some (BranchSlot.mk a) else none).map BranchSlot.target = if p then some a else none := by
  by_cases hp : p
  · rw [if_pos (h.mpr hp), if_pos hp]; rfl
  · rw [if_neg (fun hc => hp (h.mp hc)), if_neg hp]; rfl

theorem map_target_if_not {c : Bool} {p : Prop} [Decidable p] {a : Word} (h : c = true ↔ ¬ p) :
    (if c then some (BranchSlot.mk a) else none).map BranchSlot.target = if p then none else some a := by
  rw [map_target_if h, ite_not]

theorem execCase_load (i : Instr) (s : State) (r ea : _) (n : Width) (f : Word → Word) (hd : i.directDest = none)
    (hl : i.delayedDest = some r) (hb : i.scheduledTarget s = none) (hu : i.unlistedName = none) :
    ∃ t, loadFrom s (encode i) r ea n f = .next t ∧ ExecCase i s t := by
  rw [loadFrom_eq]
  refine ⟨_, rfl, ?_⟩
  split
  · next c h =>
    refine .raised c ?_ hu
    rcases memRead_error h with h | ⟨off, h⟩
    · exact .inr (.inr (.inl ⟨_, h⟩))
    · exact .inr (.inr (.inr ⟨_, _, _, h⟩))
  · next m h => exact .applied none _ none hd.symm hl.symm hb.symm hu

theorem execCase_store (i : Instr) (s : State) (rt rs : RegIndex) (imm : BitVec 16) (ea : Word) (n : Width) (v : Word)
    (hi : i = .sb rt rs imm ∨ i = .sh rt rs imm ∨ i = .sw rt rs imm) :
    ∃ t, storeTo s (encode i) ea n v = .next t ∧ ExecCase i s t := by
  have hu : i.unlistedName = none := by rcases hi with h | h | h <;> subst h <;> rfl
  have hd : i.directDest = none := by rcases hi with h | h | h <;> subst h <;> rfl
  have hl : i.delayedDest = none := by rcases hi with h | h | h <;> subst h <;> rfl
  have hb : i.scheduledTarget s = none := by rcases hi with h | h | h <;> subst h <;> rfl
  have hself : ExecCase i s s := .applied none none none hd.symm hl.symm hb.symm hu
  rw [storeTo_eq]
  refine ⟨_, rfl, ?_⟩
  split
  · exact hself
  · next hs =>
    split
    · next c h =>
      refine .raised c ?_ hu
      rcases memWrite_error h with h | ⟨off, h⟩
      · exact .inr (.inr (.inl ⟨_, h⟩))
      · exact .inr (.inr (.inr ⟨_, _, _, h⟩))
    · next t h =>
      rcases memWrite_ok h with ⟨h, -⟩ | ⟨off, -, hb, h⟩
      · subst h; exact hself
      · subst h; exact .stored rt rs imm off _ v hi (by simpa using hs) hb

/-- `exec` always answers a next state, in one of the cases. -/
theorem exec_cases (i : Instr) (s : State) : ∃ t, exec i s = .next t ∧ ExecCase i s t := by
  cases i with
  | add rd rs rt sa =>
    refine ⟨_, writeChecked_eq .., ?_⟩
    split
    · exact .raised _ (.inl rfl) rfl
    · exact .applied (some (_, _)) none none rfl rfl rfl rfl
  | addu rd rs rt sa =>
    exact ⟨_, rfl, .applied (some (_, _)) none none rfl rfl rfl rfl⟩
  | addi rt rs imm =>
    refine ⟨_, writeChecked_eq .., ?_⟩
    split
    · exact .raised _ (.inl rfl) rfl
    · exact .applied (some (_, _)) none none rfl rfl rfl rfl
  | addiu rt rs imm =>
    exact ⟨_, rfl, .applied (some (_, _)) none none rfl rfl rfl rfl⟩
  | and rd rs rt sa =>
    exact ⟨_, rfl, .applied (some (_, _)) none none rfl rfl rfl rfl⟩
  | or rd rs rt sa =>
    exact ⟨_, rfl, .applied (some (_, _)) none none rfl rfl rfl rfl⟩
  | xor rd rs rt sa =>
    exact ⟨_, rfl, .applied (some (_, _)) none none rfl rfl rfl rfl⟩
  | andi rt rs imm =>
    exact ⟨_, rfl, .applied (some (_, _)) none none rfl rfl rfl rfl⟩
  | ori rt rs imm =>
    exact ⟨_, rfl, .applied (some (_, _)) none none rfl rfl rfl rfl⟩
  | sll rd rt shamt rs =>
    exact ⟨_, rfl, .applied (some (_, _)) none none rfl rfl rfl rfl⟩
  | srl rd rt shamt rs =>
    exact ⟨_, rfl, .applied (some (_, _)) none none rfl rfl rfl rfl⟩
  | sra rd rt shamt rs =>
    exact ⟨_, rfl, .applied (some (_, _)) none none rfl rfl rfl rfl⟩
  | sllv rd rt rs sa =>
    exact ⟨_, rfl, .applied (some (_, _)) none none rfl rfl rfl rfl⟩
  | srlv rd rt rs sa =>
    exact ⟨_, rfl, .applied (some (_, _)) none none rfl rfl rfl rfl⟩
  | srav rd rt rs sa =>
    exact ⟨_, rfl, .applied (some (_, _)) none none rfl rfl rfl rfl⟩
  | lui rt imm rs =>
    exact ⟨_, rfl, .applied (some (_, _)) none none rfl rfl rfl rfl⟩
  | lb rt rs imm =>
    exact execCase_load (.lb rt rs imm) s _ _ _ _ rfl rfl rfl rfl
  | lbu rt rs imm =>
    exact execCase_load (.lbu rt rs imm) s _ _ _ _ rfl rfl rfl rfl
  | lhu rt rs imm =>
    exact execCase_load (.lhu rt rs imm) s _ _ _ _ rfl rfl rfl rfl
  | lw rt rs imm =>
    exact execCase_load (.lw rt rs imm) s _ _ _ _ rfl rfl rfl rfl
  | sb rt rs imm =>
    exact execCase_store (.sb rt rs imm) s rt rs imm _ _ _ (by simp)
  | sh rt rs imm =>
    exact execCase_store (.sh rt rs imm) s rt rs imm _ _ _ (by simp)
  | sw rt rs imm =>
    exact execCase_store (.sw rt rs imm) s rt rs imm _ _ _ (by simp)
  | j target =>
    exact ⟨_, rfl, .applied none none (some ⟨_⟩) rfl rfl rfl rfl⟩
  | jal target =>
    refine ⟨_, congrArg Host.Outcome.next (directWrite_scheduleBranch_eq ..), ?_⟩
    exact .applied (some (_, _)) none _ rfl rfl rfl rfl
  | jr rs rt rd sa =>
    exact ⟨_, rfl, .applied none none (some ⟨_⟩) rfl rfl rfl rfl⟩
  | jalr rd rs rt sa =>
    refine ⟨_, congrArg Host.Outcome.next (directWrite_scheduleBranch_eq ..), ?_⟩
    exact .applied (some (_, _)) none _ rfl rfl rfl rfl
  | beq rs rt imm =>
    refine ⟨_, congrArg Host.Outcome.next (branchIf_eq ..), ?_⟩
    exact .applied none none _ rfl rfl (map_target_if (by simp)) rfl
  | bne rs rt imm =>
    refine ⟨_, congrArg Host.Outcome.next (branchIf_eq ..), ?_⟩
    exact .applied none none _ rfl rfl (map_target_if_not (by simp)) rfl
  | blez rs imm rt =>
    refine ⟨_, congrArg Host.Outcome.next (branchIf_eq ..), ?_⟩
    exact .applied none none _ rfl rfl (map_target_if decide_eq_true_iff) rfl
  | bgtz rs imm rt =>
    refine ⟨_, congrArg Host.Outcome.next (branchIf_eq ..), ?_⟩
    exact .applied none none _ rfl rfl (map_target_if decide_eq_true_iff) rfl
  | bltz rs imm =>
    refine ⟨_, congrArg Host.Outcome.next (branchIf_eq ..), ?_⟩
    exact .applied none none _ rfl rfl (map_target_if decide_eq_true_iff) rfl
  | bgez rs imm =>
    refine ⟨_, congrArg Host.Outcome.next (branchIf_eq ..), ?_⟩
    exact .applied none none _ rfl rfl (map_target_if decide_eq_true_iff) rfl
  | bltzal rs imm =>
    refine ⟨_, congrArg Host.Outcome.next (directWrite_branchIf_eq ..), ?_⟩
    exact .applied (some (_, _)) none _ rfl rfl (map_target_if decide_eq_true_iff) rfl
  | bgezal rs imm =>
    refine ⟨_, congrArg Host.Outcome.next (directWrite_branchIf_eq ..), ?_⟩
    exact .applied (some (_, _)) none _ rfl rfl (map_target_if decide_eq_true_iff) rfl
  | mfc0 rt rd low =>
    exact ⟨_, rfl, .applied none (some ⟨_, _⟩) none rfl rfl rfl rfl⟩
  | mtc0 rt rd low =>
    by_cases h : controlWriteAccepted rd (s.getReg rt) = true
    · refine ⟨s.putControl rd (s.getReg rt), ?_, .control rt rd low rfl ((controlWriteAccepted_iff ..).mp h)⟩
      simp [exec, execMtc0, State.setControl, h]
    · refine ⟨s.raiseExecute (encode (.mtc0 rt rd low)) (.controlRegisterWriteRejected rd (s.getReg rt)), ?_,
        .raised _ (.inr (.inl ⟨_, _, rfl⟩)) rfl⟩
      simp [exec, execMtc0, State.setControl, h]
  | slti bits => exact ⟨_, rfl, .unlisted .slti rfl⟩
  | sltiu bits => exact ⟨_, rfl, .unlisted .sltiu rfl⟩
  | xori bits => exact ⟨_, rfl, .unlisted .xori rfl⟩
  | cop1 bits => exact ⟨_, rfl, .unlisted .cop1 rfl⟩
  | cop2 bits => exact ⟨_, rfl, .unlisted .cop2 rfl⟩
  | cop3 bits => exact ⟨_, rfl, .unlisted .cop3 rfl⟩
  | lh bits => exact ⟨_, rfl, .unlisted .lh rfl⟩
  | lwl bits => exact ⟨_, rfl, .unlisted .lwl rfl⟩
  | lwr bits => exact ⟨_, rfl, .unlisted .lwr rfl⟩
  | swl bits => exact ⟨_, rfl, .unlisted .swl rfl⟩
  | swr bits => exact ⟨_, rfl, .unlisted .swr rfl⟩
  | lwc0 bits => exact ⟨_, rfl, .unlisted .lwc0 rfl⟩
  | lwc1 bits => exact ⟨_, rfl, .unlisted .lwc1 rfl⟩
  | lwc2 bits => exact ⟨_, rfl, .unlisted .lwc2 rfl⟩
  | lwc3 bits => exact ⟨_, rfl, .unlisted .lwc3 rfl⟩
  | swc0 bits => exact ⟨_, rfl, .unlisted .swc0 rfl⟩
  | swc1 bits => exact ⟨_, rfl, .unlisted .swc1 rfl⟩
  | swc2 bits => exact ⟨_, rfl, .unlisted .swc2 rfl⟩
  | swc3 bits => exact ⟨_, rfl, .unlisted .swc3 rfl⟩
  | syscall bits => exact ⟨_, rfl, .unlisted .syscall rfl⟩
  | brk bits => exact ⟨_, rfl, .unlisted .brk rfl⟩
  | mfhi bits => exact ⟨_, rfl, .unlisted .mfhi rfl⟩
  | mthi bits => exact ⟨_, rfl, .unlisted .mthi rfl⟩
  | mflo bits => exact ⟨_, rfl, .unlisted .mflo rfl⟩
  | mtlo bits => exact ⟨_, rfl, .unlisted .mtlo rfl⟩
  | mult bits => exact ⟨_, rfl, .unlisted .mult rfl⟩
  | multu bits => exact ⟨_, rfl, .unlisted .multu rfl⟩
  | div bits => exact ⟨_, rfl, .unlisted .div rfl⟩
  | divu bits => exact ⟨_, rfl, .unlisted .divu rfl⟩
  | sub bits => exact ⟨_, rfl, .unlisted .sub rfl⟩
  | subu bits => exact ⟨_, rfl, .unlisted .subu rfl⟩
  | nor bits => exact ⟨_, rfl, .unlisted .nor rfl⟩
  | slt bits => exact ⟨_, rfl, .unlisted .slt rfl⟩
  | sltu bits => exact ⟨_, rfl, .unlisted .sltu rfl⟩
  | cfc0 bits => exact ⟨_, rfl, .unlisted .cfc0 rfl⟩
  | ctc0 bits => exact ⟨_, rfl, .unlisted .ctc0 rfl⟩
  | bc0 bits => exact ⟨_, rfl, .unlisted .bc0 rfl⟩
  | cop0Operation bits => exact ⟨_, rfl, .unlisted .cop0Operation rfl⟩

/-- Everything a step that answers a next state can have done. -/
inductive StepCase (s : State) : State → Prop
  /-- The fetch raised: the pc stays (R302). -/
  | fetchRaised (c : Condition) (hf : s.fetch = .error c) : StepCase s (s.raiseFetch c)
  /-- The word has no instruction (R101). -/
  | noInstruction (w : Word) (e : DecodeReject) (hf : s.fetch = .ok w) (hd : decode w = .error e) :
      StepCase s (s.advancePc.raiseDecode w)
  /-- An instruction executed, and the step ended (R120). -/
  | executed (w : Word) (i : Instr) (u : State) (hf : s.fetch = .ok w) (hd : decode w = .ok i)
      (he : exec i s.advancePc = .next u) (hc : ExecCase i s.advancePc u) : StepCase s u.finish

theorem step_cases {s t : State} (h : step s = .next t) : s.halt = .running ∧ StepCase s t := by
  unfold step at h
  split at h
  · cases h
  · cases h
  · next hh =>
    refine ⟨hh, ?_⟩
    split at h
    · next c hf => cases h; exact .fetchRaised c hf
    · next w hf =>
      unfold runWord at h
      split at h
      · next e hd => cases h; exact .noInstruction w e hf hd
      · next i hd =>
        obtain ⟨u, he, hc⟩ := exec_cases i s.advancePc
        rw [he] at h
        cases h
        exact .executed w i u hf hd he hc

/-- A step of a running state on a decoded word. -/
theorem step_of_decoded {s u : State} {w : Word} {i : Instr} (hr : s.halt = .running) (hf : s.fetch = .ok w)
    (hd : decode w = .ok i) (he : exec i s.advancePc = .next u) : step s = .next u.finish := by
  simp [step, hr, hf, runWord, hd, he, finishResult]

/-- A step of a running state on a known instruction: the meaning answered, and the step ended. -/
theorem runs_step {s t : State} {i : Instr} (h : s.Runs i) (hs : step s = .next t) :
    ∃ u, exec i s.advancePc = .next u ∧ ExecCase i s.advancePc u ∧ t = u.finish := by
  obtain ⟨hr, w, hf, hd⟩ := h
  obtain ⟨u, he, hc⟩ := exec_cases i s.advancePc
  rw [step_of_decoded hr hf hd he] at hs
  exact ⟨u, he, hc, by cases hs; rfl⟩

/-- How a meaning leaves `halt`: running, or one of the three ways to end the run. -/
theorem execCase_halt {i : Instr} {s t : State} (h : ExecCase i s t) (hr : s.halt = .running) :
    (t.halt = .running ∧ i.unlistedName = none) ∨
    (∃ c, t = s.raiseExecute (encode i) c ∧
      (c = .arithmeticOverflow ∨ (∃ r v, c = .controlRegisterWriteRejected r v) ∨ (∃ a, c = .addressNotMapped a) ∨
        ∃ a off n, c = .outOfBounds a off n)) ∨
    (t = s.raiseDecode (encode i) ∧ s.config.unlistedPolicy = .notImplemented) ∨
    ∃ n, i.unlistedName = some n ∧ t = s.refuse (encode i) n ∧ s.config.unlistedPolicy = .refuse := by
  cases h with
  | applied _ _ _ _ _ _ hu => exact .inl ⟨hr, hu⟩
  | raised c hc => exact .inr (.inl ⟨c, rfl, hc⟩)
  | unlisted n hn =>
    unfold State.unlisted
    cases hp : s.config.unlistedPolicy
    · exact .inr (.inr (.inr ⟨n, hn, rfl, rfl⟩))
    · exact .inr (.inr (.inl ⟨rfl, rfl⟩))
  | control _ _ _ hi => exact .inl ⟨hr, by subst hi; rfl⟩
  | stored _ _ _ _ _ _ hi => exact .inl ⟨hr, by rcases hi with h | h | h <;> subst h <;> rfl⟩

/-- What a meaning that does not end the run leaves alone: the pc, the imminent branch, and every register but its direct
destination; the imminent load is kept but for one to that destination, and the branch that enters is the instruction's own. -/
theorem execCase_running {i : Instr} {s u : State} (hc : ExecCase i s u) (hu : u.halt = .running) :
    u.pc = s.pc ∧ u.bq0 = s.bq0 ∧
    (u.lq0 = match i.directDest with
      | some r => dropLoad s.lq0 r
      | none => s.lq0) ∧
    (∀ q, i.directDest ≠ some q → u.getReg q = s.getReg q) ∧
    (s.lq1 = none → u.lq1.map LoadSlot.reg = i.delayedDest) ∧
    u.bq1 = ((i.scheduledTarget s).map BranchSlot.mk).or s.bq1 := by
  cases hc with
  | applied d l b hd hl hb hn =>
    refine ⟨rfl, rfl, ?_, fun q hq => ?_, fun h => by simp [State.applied, h, hl], ?_⟩
    · rw [← hd]; rcases d with _ | ⟨r, v⟩ <;> rfl
    · rcases d with _ | ⟨r, v⟩
      · rfl
      · rw [(effect_applied s (some (r, v)) l b).1]
        have : q ≠ r := fun e => hq (by rw [← hd, e]; rfl)
        simp [afterDirect, this]
    · rw [← hb]; cases b <;> rfl
  | raised c hc => cases hu
  | unlisted n hn => unfold State.unlisted at hu; split at hu <;> cases hu
  | control rt rd low hi => subst hi; exact ⟨rfl, rfl, rfl, fun _ _ => rfl, fun h => by simp [h]; rfl, rfl⟩
  | stored rt rs imm off n v hi =>
    have h1 : i.directDest = none := by rcases hi with h | h | h <;> subst h <;> rfl
    have h2 : i.delayedDest = none := by rcases hi with h | h | h <;> subst h <;> rfl
    have h3 : i.scheduledTarget s = none := by rcases hi with h | h | h <;> subst h <;> rfl
    exact ⟨rfl, rfl, by rw [h1], fun _ _ => rfl, fun h => by simp [h, h2], by rw [h3]; rfl⟩

end Sys2Proof.Machine
end

