-- ==== Sys2Proof/WellFormed.lean ====
section
/-! DEFINITION. Well-formedness of an instruction as syntax.

No term of Instr is out of range: every operand has exactly its field's width (R23, R91). What can still be asked of a
term is whether its ignored fields are zero, the form an assembler emits (R105). MIPS-I requires it; this core neither
checks it nor traps (R99), so the decoder yields terms that are not in that form, and they run. -/

namespace Sys2Proof

/-- The ignored fields are zero: the form of an assembler's output (R99, R105). -/
def Instr.wellFormed : Instr → Bool
  | .add _ _ _ sa => sa == 0
  | .addu _ _ _ sa => sa == 0
  | .addi _ _ _ => true
  | .addiu _ _ _ => true
  | .and _ _ _ sa => sa == 0
  | .or _ _ _ sa => sa == 0
  | .xor _ _ _ sa => sa == 0
  | .andi _ _ _ => true
  | .ori _ _ _ => true
  | .sll _ _ _ rs => rs == 0
  | .srl _ _ _ rs => rs == 0
  | .sra _ _ _ rs => rs == 0
  | .sllv _ _ _ sa => sa == 0
  | .srlv _ _ _ sa => sa == 0
  | .srav _ _ _ sa => sa == 0
  | .lui _ _ rs => rs == 0
  | .lb _ _ _ => true
  | .lbu _ _ _ => true
  | .lhu _ _ _ => true
  | .lw _ _ _ => true
  | .sb _ _ _ => true
  | .sh _ _ _ => true
  | .sw _ _ _ => true
  | .j _ => true
  | .jal _ => true
  | .jr _ rt rd sa => rt == 0 && rd == 0 && sa == 0
  | .jalr _ _ rt sa => rt == 0 && sa == 0
  | .beq _ _ _ => true
  | .bne _ _ _ => true
  | .blez _ _ rt => rt == 0
  | .bgtz _ _ rt => rt == 0
  | .bltz _ _ => true
  | .bgez _ _ => true
  | .bltzal _ _ => true
  | .bgezal _ _ => true
  | .mfc0 _ _ low => low == 0
  | .mtc0 _ _ low => low == 0
  | .slti _ => true
  | .sltiu _ => true
  | .xori _ => true
  | .cop1 _ => true
  | .cop2 _ => true
  | .cop3 _ => true
  | .lh _ => true
  | .lwl _ => true
  | .lwr _ => true
  | .swl _ => true
  | .swr _ => true
  | .lwc0 _ => true
  | .lwc1 _ => true
  | .lwc2 _ => true
  | .lwc3 _ => true
  | .swc0 _ => true
  | .swc1 _ => true
  | .swc2 _ => true
  | .swc3 _ => true
  | .syscall _ => true
  | .brk _ => true
  | .mfhi _ => true
  | .mthi _ => true
  | .mflo _ => true
  | .mtlo _ => true
  | .mult _ => true
  | .multu _ => true
  | .div _ => true
  | .divu _ => true
  | .sub _ => true
  | .subu _ => true
  | .nor _ => true
  | .slt _ => true
  | .sltu _ => true
  | .cfc0 _ => true
  | .ctc0 _ => true
  | .bc0 _ => true
  | .cop0Operation _ => true

end Sys2Proof
end

