-- ==== Sys2Proof/Tests/Slice0.lean ====
section
/-! SUPPORT. The model's own tests. Words and results are those of spec/95_test_vectors.md (each test names its vector) or are written
out by hand from the encoding tables R92, R95 to R98. A name `witness_X_...` shows values that meet the hypotheses of the statement
`Obligations.X`, one for each clause. -/

namespace Sys2Proof.Tests

open Sys2Proof Sys2Proof.Machine

/-! ### Helpers -/

/-- The state an outcome answers, or the given one. -/
def stateOf (s : State) : Result → State
  | .next t => t
  | .fault _ => s
  | .refused _ => s

/-- Whether an outcome answers a state. -/
def answers : Result → Bool
  | .next _ => true
  | .fault _ => false
  | .refused _ => false

/-- The state after one step. -/
def after (s : State) : State := stateOf s (step s)

theorem eq_next {s : State} {r : Result} (h : answers r = true) : r = .next (stateOf s r) := by
  cases r with
  | next _ => rfl
  | fault _ => cases h
  | refused _ => cases h

theorem steps {s : State} (h : answers (step s) = true) : step s = .next (after s) := eq_next h

/-- Some registers written. -/
def writeAll (s : State) : List (RegIndex × Word) → State
  | [] => s
  | (r, v) :: rest => writeAll (s.setReg r v) rest

/-- Some bytes written. -/
def fillAll (m : Memory) : List (Nat × Byte) → Memory
  | [] => m
  | (a, b) :: rest => fillAll (Memory.write m a b) rest

/-- The reset state with some registers, the status register, some bytes of RAM, and a word at the pc. -/
def place (w : Word) (regs : List (RegIndex × Word) := []) (sr : Word := 0#32) (bytes : List (Nat × Byte) := []) : State :=
  let s := (writeAll State.reset regs).putControl 12#5 sr
  State.withFetchWord { s with ram := fillAll s.ram bytes } 32 w.toNat

/-- The same under the other policy for Unlisted words. -/
def lenient (s : State) : State := { s with config := { s.config with unlistedPolicy := .notImplemented } }

/-- Whether a state is faulted with this condition, in this phase, at the reset pc. -/
def faultedWith (s : State) (c : Condition) (p : Phase) : Bool :=
  match s.halt with
  | .faulted r => r.condition == c && r.phase == p && r.address == 0xBFC00000#32
  | .running => false
  | .refused _ => false

/-- Whether a state is refused with this name, at the reset pc. -/
def refusedWith (s : State) (n : UnlistedName) : Bool :=
  match s.halt with
  | .refused r => r.mnemonic == n && r.address == 0xBFC00000#32
  | .running => false
  | .faulted _ => false

/-! ### Well-formedness: each check refuses a term with a nonzero ignored field (R105), and takes it with zero -/

theorem test_illFormed_register :
    Instr.wellFormed (.add 0 0 0 1) = false ∧
    Instr.wellFormed (.add 1 1 1 0) = true ∧
    Instr.wellFormed (.addu 0 0 0 1) = false ∧
    Instr.wellFormed (.addu 1 1 1 0) = true ∧
    Instr.wellFormed (.and 0 0 0 1) = false ∧
    Instr.wellFormed (.and 1 1 1 0) = true ∧
    Instr.wellFormed (.or 0 0 0 1) = false ∧
    Instr.wellFormed (.or 1 1 1 0) = true ∧
    Instr.wellFormed (.xor 0 0 0 1) = false ∧
    Instr.wellFormed (.xor 1 1 1 0) = true ∧
    Instr.wellFormed (.sllv 0 0 0 1) = false ∧
    Instr.wellFormed (.sllv 1 1 1 0) = true ∧
    Instr.wellFormed (.srlv 0 0 0 1) = false ∧
    Instr.wellFormed (.srlv 1 1 1 0) = true ∧
    Instr.wellFormed (.srav 0 0 0 1) = false ∧
    Instr.wellFormed (.srav 1 1 1 0) = true := by
  decide

theorem test_illFormed_shift :
    Instr.wellFormed (.sll 0 0 0 1) = false ∧
    Instr.wellFormed (.sll 1 1 1 0) = true ∧
    Instr.wellFormed (.srl 0 0 0 1) = false ∧
    Instr.wellFormed (.srl 1 1 1 0) = true ∧
    Instr.wellFormed (.sra 0 0 0 1) = false ∧
    Instr.wellFormed (.sra 1 1 1 0) = true ∧
    Instr.wellFormed (.lui 0 0 1) = false ∧
    Instr.wellFormed (.lui 1 1 0) = true := by
  decide

theorem test_illFormed_jump :
    Instr.wellFormed (.jr 0 1 0 0) = false ∧
    Instr.wellFormed (.jr 0 0 1 0) = false ∧
    Instr.wellFormed (.jr 0 0 0 1) = false ∧
    Instr.wellFormed (.jr 1 0 0 0) = true ∧
    Instr.wellFormed (.jalr 0 0 1 0) = false ∧
    Instr.wellFormed (.jalr 0 0 0 1) = false ∧
    Instr.wellFormed (.jalr 1 1 0 0) = true := by
  decide

theorem test_illFormed_branch :
    Instr.wellFormed (.blez 0 0 1) = false ∧
    Instr.wellFormed (.blez 1 1 0) = true ∧
    Instr.wellFormed (.bgtz 0 0 1) = false ∧
    Instr.wellFormed (.bgtz 1 1 0) = true := by
  decide

theorem test_illFormed_control :
    Instr.wellFormed (.mfc0 0 0 1) = false ∧
    Instr.wellFormed (.mfc0 1 1 0) = true ∧
    Instr.wellFormed (.mtc0 0 0 1) = false ∧
    Instr.wellFormed (.mtc0 1 1 0) = true := by
  decide

/-- An instruction with an ignored field that is not zero is decoded and runs all the same (DC14). -/
theorem test_illFormed_runs :
    (after (place 0x002218A0#32 [(1, 1#32), (2, 2#32)])).getReg 3 = 3#32 := by decide

/-! ### Decoding: every constructor, by a word written out from its row (R95 to R98), with distinct operands and no zero field -/

theorem test_decode_adds :
    decode 0x02329A60#32 = .ok (.add 19 17 18 9) ∧
    decode 0x02329A61#32 = .ok (.addu 19 17 18 9) ∧
    decode 0x22328765#32 = .ok (.addi 18 17 0x8765) ∧
    decode 0x26328765#32 = .ok (.addiu 18 17 0x8765) := by
  decide

theorem test_decode_logical :
    decode 0x02329A64#32 = .ok (.and 19 17 18 9) ∧
    decode 0x02329A65#32 = .ok (.or 19 17 18 9) ∧
    decode 0x02329A66#32 = .ok (.xor 19 17 18 9) ∧
    decode 0x32328765#32 = .ok (.andi 18 17 0x8765) ∧
    decode 0x36328765#32 = .ok (.ori 18 17 0x8765) := by
  decide

theorem test_decode_shifts :
    decode 0x02329A40#32 = .ok (.sll 19 18 9 17) ∧
    decode 0x02329A42#32 = .ok (.srl 19 18 9 17) ∧
    decode 0x02329A43#32 = .ok (.sra 19 18 9 17) ∧
    decode 0x02329A44#32 = .ok (.sllv 19 18 17 9) ∧
    decode 0x02329A46#32 = .ok (.srlv 19 18 17 9) ∧
    decode 0x02329A47#32 = .ok (.srav 19 18 17 9) ∧
    decode 0x3E328765#32 = .ok (.lui 18 0x8765 17) := by
  decide

theorem test_decode_memory :
    decode 0x82328765#32 = .ok (.lb 18 17 0x8765) ∧
    decode 0x92328765#32 = .ok (.lbu 18 17 0x8765) ∧
    decode 0x96328765#32 = .ok (.lhu 18 17 0x8765) ∧
    decode 0x8E328765#32 = .ok (.lw 18 17 0x8765) ∧
    decode 0xA2328765#32 = .ok (.sb 18 17 0x8765) ∧
    decode 0xA6328765#32 = .ok (.sh 18 17 0x8765) ∧
    decode 0xAE328765#32 = .ok (.sw 18 17 0x8765) := by
  decide

theorem test_decode_jumps :
    decode 0x0A345678#32 = .ok (.j 0x2345678) ∧
    decode 0x0E345678#32 = .ok (.jal 0x2345678) ∧
    decode 0x02329A48#32 = .ok (.jr 17 18 19 9) ∧
    decode 0x02329A49#32 = .ok (.jalr 19 17 18 9) := by
  decide

theorem test_decode_branches :
    decode 0x12328765#32 = .ok (.beq 17 18 0x8765) ∧
    decode 0x16328765#32 = .ok (.bne 17 18 0x8765) ∧
    decode 0x1A328765#32 = .ok (.blez 17 0x8765 18) ∧
    decode 0x1E328765#32 = .ok (.bgtz 17 0x8765 18) ∧
    decode 0x06208765#32 = .ok (.bltz 17 0x8765) ∧
    decode 0x06218765#32 = .ok (.bgez 17 0x8765) ∧
    decode 0x06308765#32 = .ok (.bltzal 17 0x8765) ∧
    decode 0x06318765#32 = .ok (.bgezal 17 0x8765) := by
  decide

theorem test_decode_moves :
    decode 0x40129DA5#32 = .ok (.mfc0 18 19 0x5A5) ∧
    decode 0x40929DA5#32 = .ok (.mtc0 18 19 0x5A5) := by
  decide

theorem test_decode_unlisted_primary :
    decode 0x2A345678#32 = .ok (.slti 0x2345678) ∧
    decode 0x2E345678#32 = .ok (.sltiu 0x2345678) ∧
    decode 0x3A345678#32 = .ok (.xori 0x2345678) ∧
    decode 0x46345678#32 = .ok (.cop1 0x2345678) ∧
    decode 0x4A345678#32 = .ok (.cop2 0x2345678) ∧
    decode 0x4E345678#32 = .ok (.cop3 0x2345678) ∧
    decode 0x86345678#32 = .ok (.lh 0x2345678) ∧
    decode 0x8A345678#32 = .ok (.lwl 0x2345678) ∧
    decode 0x9A345678#32 = .ok (.lwr 0x2345678) ∧
    decode 0xAA345678#32 = .ok (.swl 0x2345678) := by
  decide

theorem test_decode_unlisted_coprocessor :
    decode 0xBA345678#32 = .ok (.swr 0x2345678) ∧
    decode 0xC2345678#32 = .ok (.lwc0 0x2345678) ∧
    decode 0xC6345678#32 = .ok (.lwc1 0x2345678) ∧
    decode 0xCA345678#32 = .ok (.lwc2 0x2345678) ∧
    decode 0xCE345678#32 = .ok (.lwc3 0x2345678) ∧
    decode 0xE2345678#32 = .ok (.swc0 0x2345678) ∧
    decode 0xE6345678#32 = .ok (.swc1 0x2345678) ∧
    decode 0xEA345678#32 = .ok (.swc2 0x2345678) ∧
    decode 0xEE345678#32 = .ok (.swc3 0x2345678) := by
  decide

theorem test_decode_unlisted_special :
    decode 0x02AF378C#32 = .ok (.syscall 0xABCDE) ∧
    decode 0x02AF378D#32 = .ok (.brk 0xABCDE) ∧
    decode 0x02AF3790#32 = .ok (.mfhi 0xABCDE) ∧
    decode 0x02AF3791#32 = .ok (.mthi 0xABCDE) ∧
    decode 0x02AF3792#32 = .ok (.mflo 0xABCDE) ∧
    decode 0x02AF3793#32 = .ok (.mtlo 0xABCDE) ∧
    decode 0x02AF3798#32 = .ok (.mult 0xABCDE) ∧
    decode 0x02AF3799#32 = .ok (.multu 0xABCDE) ∧
    decode 0x02AF379A#32 = .ok (.div 0xABCDE) ∧
    decode 0x02AF379B#32 = .ok (.divu 0xABCDE) ∧
    decode 0x02AF37A2#32 = .ok (.sub 0xABCDE) ∧
    decode 0x02AF37A3#32 = .ok (.subu 0xABCDE) ∧
    decode 0x02AF37A7#32 = .ok (.nor 0xABCDE) ∧
    decode 0x02AF37AA#32 = .ok (.slt 0xABCDE) ∧
    decode 0x02AF37AB#32 = .ok (.sltu 0xABCDE) := by
  decide

theorem test_decode_unlisted_cop0 :
    decode 0x405BCDEF#32 = .ok (.cfc0 0x1BCDEF) ∧
    decode 0x40DBCDEF#32 = .ok (.ctc0 0x1BCDEF) ∧
    decode 0x411BCDEF#32 = .ok (.bc0 0x1BCDEF) ∧
    decode 0x43BCDEF0#32 = .ok (.cop0Operation 0x1BCDEF0) := by
  decide

/-- The three Empty spaces below the primary table, the primary table's own, and the two ends of the COP0 operation space. -/
theorem test_decode_empty :
    decode 0x9C000000#32 = .error (.emptyPrimary 0x27) ∧ decode 0xFC000000#32 = .error (.emptyPrimary 0x3F) ∧
    decode 0x00000001#32 = .error (.emptySpecial 1) ∧ decode 0x04020000#32 = .error (.emptyRegimm 2) ∧
    decode 0x40200000#32 = .error (.emptyCop0 1) ∧ decode 0x41E00000#32 = .error (.emptyCop0 0x0F) ∧
    decode 0x42000000#32 = .ok (.cop0Operation 0) ∧ decode 0x43FFFFFF#32 = .ok (.cop0Operation 0x1FFFFFF) := by
  decide

/-- Bytes lie little-endian (R63), and too few of them are rejected. -/
theorem test_decodeBytes :
    decodeBytes [0x20#8, 0x18#8, 0x22#8, 0x00#8, 0xAA#8] = .ok (.add 3 1 2 0, [0xAA#8]) ∧
    decodeBytes [0x20#8, 0x18#8, 0x22#8] = .error (.truncated 3) ∧
    decodeTableWord 32 0x00221820 = some (.add 3 1 2 0) ∧ decodeTableWord 32 0xFC000000 = none := by
  decide

/-- A placed word is the word the next step fetches, at reset and with the pc in RAM, and where there is no byte store. -/
theorem test_withFetchWord :
    (State.reset.withFetchWord 32 0x00221820).fetch = .ok 0x00221820#32 ∧
    (State.withFetchWord { State.reset with pc := 0x801FFFFC#32 } 32 0xAC220004).fetch = .ok 0xAC220004#32 ∧
    (State.withFetchWord { State.reset with pc := 0x1F801000#32 } 32 0xAC220004).fetch = .ok 0xAC220004#32 := by
  decide

/-- The first step from the bare reset state runs the zero word, which is SLL r0,r0,0 (SH3, log 7). -/
theorem test_reset_first_step : (after State.reset).pc = 0xBFC00004#32 ∧ (after State.reset).halt = .running := by decide

/-! ### One step of each instruction -/

/-- AR5: overflow is raised with rd = r0 too. -/
theorem test_add_overflow_r0 :
    faultedWith (after (place 0x00220020#32 [(1, 0x7FFFFFFF#32), (2, 0x1#32)])) .arithmeticOverflow .execute = true := by decide

/-- AR4. -/
theorem test_add :
    (after (place 0x00221820#32 [(1, 0x80000000#32), (2, 0x7FFFFFFF#32)])).getReg 3 = 0xFFFFFFFF#32 := by decide

/-- AR8. -/
theorem test_addu_wraps :
    (after (place 0x00221821#32 [(1, 0xFFFFFFFF#32), (2, 0x2#32)])).getReg 3 = 0x1#32 := by decide

/-- AR9. -/
theorem test_addu_no_trap :
    (after (place 0x00221821#32 [(1, 0x7FFFFFFF#32), (2, 0x1#32)])).getReg 3 = 0x80000000#32 := by decide

/-- AR14. -/
theorem test_addi_sign_extends :
    (after (place 0x20028000#32)).getReg 2 = 0xFFFF8000#32 := by decide

/-- AR12. -/
theorem test_addi_overflow :
    faultedWith (after (place 0x2022FFFF#32 [(1, 0x80000000#32)])) .arithmeticOverflow .execute = true := by decide

/-- AR17. -/
theorem test_addiu_sign_extends :
    (after (place 0x2402FFFF#32)).getReg 2 = 0xFFFFFFFF#32 := by decide

/-- AR18. -/
theorem test_addiu_no_trap :
    (after (place 0x24220001#32 [(1, 0x7FFFFFFF#32)])).getReg 2 = 0x80000000#32 := by decide

/-- LG1. -/
theorem test_and :
    (after (place 0x00221824#32 [(1, 0xF0F0F0F0#32), (2, 0xFF00FF0#32)])).getReg 3 = 0xF000F0#32 := by decide

/-- LG2. -/
theorem test_or :
    (after (place 0x00221825#32 [(1, 0xF0F0F0F0#32), (2, 0xFF00FF0#32)])).getReg 3 = 0xFFF0FFF0#32 := by decide

/-- LG3. -/
theorem test_xor :
    (after (place 0x00221826#32 [(1, 0xF0F0F0F0#32), (2, 0xFF00FF0#32)])).getReg 3 = 0xFF00FF00#32 := by decide

/-- LG7. -/
theorem test_andi_zero_extends :
    (after (place 0x3022FFFF#32 [(1, 0xFFFFFFFF#32)])).getReg 2 = 0xFFFF#32 := by decide

/-- LG8. -/
theorem test_ori_zero_extends :
    (after (place 0x34228001#32 [(1, 0x12340000#32)])).getReg 2 = 0x12348001#32 := by decide

/-- SH1. -/
theorem test_sll :
    (after (place 0x00011100#32 [(1, 0x80000001#32)])).getReg 2 = 0x10#32 := by decide

/-- SH2. -/
theorem test_sll_31 :
    (after (place 0x000117C0#32 [(1, 0x3#32)])).getReg 2 = 0x80000000#32 := by decide

/-- SH5. -/
theorem test_srl :
    (after (place 0x00011102#32 [(1, 0x80000001#32)])).getReg 2 = 0x8000000#32 := by decide

/-- SH7. -/
theorem test_sra :
    (after (place 0x00011103#32 [(1, 0x80000010#32)])).getReg 2 = 0xF8000001#32 := by decide

/-- SH8. -/
theorem test_sra_31 :
    (after (place 0x000117C3#32 [(1, 0x80000000#32)])).getReg 2 = 0xFFFFFFFF#32 := by decide

/-- SH10. -/
theorem test_sllv_modulo :
    (after (place 0x00411804#32 [(1, 0x1#32), (2, 0x21#32)])).getReg 3 = 0x2#32 := by decide

/-- SH15: the amount and the value are read before the write. -/
theorem test_sllv_same :
    (after (place 0x00210804#32 [(1, 0x4#32)])).getReg 1 = 0x40#32 := by decide

/-- SH12. -/
theorem test_srlv :
    (after (place 0x00411806#32 [(1, 0x80000000#32), (2, 0xFFFFFFFF#32)])).getReg 3 = 0x1#32 := by decide

/-- SH13. -/
theorem test_srav :
    (after (place 0x00411807#32 [(1, 0x80000000#32), (2, 0x1F#32)])).getReg 3 = 0xFFFFFFFF#32 := by decide

/-- SH14. -/
theorem test_srav_positive :
    (after (place 0x00411807#32 [(1, 0x40000000#32), (2, 0x1E#32)])).getReg 3 = 0x1#32 := by decide

/-- LG11: the lower half is zeroed. -/
theorem test_lui :
    (after (place 0x3C01FFFF#32 [(1, 0xFFFF#32)])).getReg 1 = 0xFFFF0000#32 := by decide

/-- LD1. -/
theorem test_lb_sign_extends :
    (after (place 0x80020100#32 [] 0x0#32 [(0x100, 0x80#8), (0x101, 0x7F#8), (0x102, 0xFF#8), (0x103, 0x01#8)])).lq0 = some ⟨2, 0xFFFFFF80#32⟩ := by decide

/-- LD3, before the delivery. -/
theorem test_lb_positive :
    (after (place 0x80020101#32 [] 0x0#32 [(0x100, 0x80#8), (0x101, 0x7F#8), (0x102, 0xFF#8), (0x103, 0x01#8)])).lq0 = some ⟨2, 0x7F#32⟩ := by decide

/-- LD4, before the delivery. -/
theorem test_lbu :
    (after (place 0x90020100#32 [] 0x0#32 [(0x100, 0x80#8), (0x101, 0x7F#8), (0x102, 0xFF#8), (0x103, 0x01#8)])).lq0 = some ⟨2, 0x80#32⟩ := by decide

/-- LD7, before the delivery: unaligned, and zero-extended. -/
theorem test_lhu_unaligned :
    (after (place 0x94020101#32 [] 0x0#32 [(0x100, 0x80#8), (0x101, 0x7F#8), (0x102, 0xFF#8), (0x103, 0x01#8)])).lq0 = some ⟨2, 0xFF7F#32⟩ := by decide

/-- LD10, before the delivery: a negative offset through another window. -/
theorem test_lw :
    (after (place 0x8C22FFFC#32 [(1, 0x80000104#32)] 0x0#32 [(0x100, 0x80#8), (0x101, 0x7F#8), (0x102, 0xFF#8), (0x103, 0x01#8)])).lq0 = some ⟨2, 0x1FF7F80#32⟩ := by decide

/-- LD18: the word read is the instruction itself. -/
theorem test_lw_bios :
    (after (place 0x8C220000#32 [(1, 0xBFC00000#32)])).lq0 = some ⟨2, 0x8C220000#32⟩ := by decide

/-- ST14: only the low byte, with every status bit but bit 16 set. -/
theorem test_sb :
    readBytes (after (place 0xA0220000#32 [(1, 0x80000000#32), (2, 0xAABBCCDD#32)] 0xFFFEFFFF#32)).ram 0 4 = 0xDD#32 := by decide

/-- ST2. -/
theorem test_sh :
    readBytes (after (place 0xA4220002#32 [(1, 0x80000000#32), (2, 0xAABBCCDD#32)])).ram 0 4 = 0xCCDD0000#32 := by decide

/-- ST4. -/
theorem test_sw_unaligned :
    readBytes (after (place 0xAC220001#32 [(1, 0x80000000#32), (2, 0xAABBCCDD#32)])).ram 0 4 = 0xBBCCDD00#32 := by decide

/-- ST10. -/
theorem test_sw_isolated :
    readBytes (after (place 0xAC220000#32 [(1, 0x80000000#32), (2, 0xAABBCCDD#32)] 0x10000#32)).ram 0 4 = 0x0#32 := by decide

/-- BR1. -/
theorem test_beq :
    (after (place 0x10220003#32 [(1, 0x5#32), (2, 0x5#32)])).bq0 = some ⟨0xBFC00010#32⟩ := by decide

/-- BR20, before the delay slot: the offset is signed. -/
theorem test_beq_backward :
    (after (place 0x1000FFFF#32)).bq0 = some ⟨0xBFC00000#32⟩ := by decide

/-- BR4, before the delay slot. -/
theorem test_bne :
    (after (place 0x14220003#32 [(1, 0x5#32), (2, 0x6#32)])).bq0 = some ⟨0xBFC00010#32⟩ := by decide

/-- BR5. -/
theorem test_bne_equal :
    (after (place 0x14210003#32 [(1, 0x5#32)])).bq0 = none := by decide

/-- BR6, before the delay slot. -/
theorem test_blez_zero :
    (after (place 0x18200003#32 [(1, 0x0#32)])).bq0 = some ⟨0xBFC00010#32⟩ := by decide

/-- BR8. -/
theorem test_blez_positive :
    (after (place 0x18200003#32 [(1, 0x7FFFFFFF#32)])).bq0 = none := by decide

/-- BR9, before the delay slot. -/
theorem test_bgtz :
    (after (place 0x1C200003#32 [(1, 0x1#32)])).bq0 = some ⟨0xBFC00010#32⟩ := by decide

/-- BR11. -/
theorem test_bgtz_negative :
    (after (place 0x1C200003#32 [(1, 0x80000000#32)])).bq0 = none := by decide

/-- BR12, before the delay slot. -/
theorem test_bltz :
    (after (place 0x04200003#32 [(1, 0xFFFFFFFF#32)])).bq0 = some ⟨0xBFC00010#32⟩ := by decide

/-- BR13. -/
theorem test_bltz_zero :
    (after (place 0x04200003#32 [(1, 0x0#32)])).bq0 = none := by decide

/-- BR14, before the delay slot. -/
theorem test_bgez_zero :
    (after (place 0x04210003#32 [(1, 0x0#32)])).bq0 = some ⟨0xBFC00010#32⟩ := by decide

/-- BR15. -/
theorem test_bgez_negative :
    (after (place 0x04210003#32 [(1, 0xFFFFFFFF#32)])).bq0 = none := by decide

/-- BR17. -/
theorem test_bltzal_links_not_taken :
    (after (place 0x04300003#32 [(1, 0x1#32)])).getReg 31 = 0xBFC00008#32 := by decide

/-- BR16, before the delay slot. -/
theorem test_bltzal :
    (after (place 0x04300003#32 [(1, 0xFFFFFFFF#32)])).bq0 = some ⟨0xBFC00010#32⟩ := by decide

/-- BR19. -/
theorem test_bgezal_links_not_taken :
    (after (place 0x07F10003#32 [(31, 0xFFFFFFFF#32)])).getReg 31 = 0xBFC00008#32 := by decide

/-- BR19: the condition reads the register before the link is written. -/
theorem test_bgezal_reads_old :
    (after (place 0x07F10003#32 [(31, 0xFFFFFFFF#32)])).bq0 = none := by decide

/-- BR22, before the delay slot. -/
theorem test_j :
    (after (place 0x0BF00040#32)).bq0 = some ⟨0xBFC00100#32⟩ := by decide

/-- BR23, before the delay slot. -/
theorem test_jal :
    (after (place 0x0FF00040#32)).bq0 = some ⟨0xBFC00100#32⟩ := by decide

/-- BR23: the link is written at once. -/
theorem test_jal_links :
    (after (place 0x0FF00040#32)).getReg 31 = 0xBFC00008#32 := by decide

/-- BR25, before the delay slot: the target is not checked. -/
theorem test_jr_unaligned :
    (after (place 0x00800008#32 [(4, 0x80001002#32)])).bq0 = some ⟨0x80001002#32⟩ := by decide

/-- BR27, before the delay slot: the target is the old register. -/
theorem test_jalr_reads_old :
    (after (place 0x03E0F809#32 [(31, 0x80001000#32)])).bq0 = some ⟨0x80001000#32⟩ := by decide

/-- BR26. -/
theorem test_jalr_links_rd :
    (after (place 0x00802809#32 [(4, 0x80001000#32)])).getReg 5 = 0xBFC00008#32 := by decide

/-- CP1: delayed like a load. -/
theorem test_mfc0 :
    (after (place 0x40026000#32 [] 0x10000#32)).lq0 = some ⟨2, 0x10000#32⟩ := by decide

/-- CP4. -/
theorem test_mtc0 :
    (after (place 0x40826000#32 [(2, 0xFFFFFFFF#32)])).getControl 12 = 0xFFFFFFFF#32 := by decide

/-- CP7. -/
theorem test_mtc0_rejected :
    faultedWith (after (place 0x40821800#32 [(2, 0x80000000#32)])) (.controlRegisterWriteRejected 3 0x80000000#32) .execute = true := by decide

/-- DC2, DC9, DC11, DC13, DC7: Unlisted words of each table are refused under their own names. -/
theorem test_unlisted_refused :
    refusedWith (after (place 0x0000000C#32)) .syscall = true ∧ refusedWith (after (place 0x00221822#32)) .sub = true ∧
    refusedWith (after (place 0x48000000#32)) .cop2 = true ∧ refusedWith (after (place 0x84000000#32)) .lh = true ∧
    refusedWith (after (place 0x42000010#32)) .cop0Operation = true := by
  decide

/-- DC3, DC10: the same words raise in the decode phase under the other policy, and DC4, DC5, DC6, DC8, DC12: Empty entries do so
under either. -/
theorem test_not_implemented :
    faultedWith (after (lenient (place 0x0000000C#32))) .opcodeNotImplemented .decode = true ∧
    faultedWith (after (lenient (place 0x00221822#32))) .opcodeNotImplemented .decode = true ∧
    faultedWith (after (place 0x00000001#32)) .opcodeNotImplemented .decode = true ∧
    faultedWith (after (place 0xFC000000#32)) .opcodeNotImplemented .decode = true ∧
    faultedWith (after (place 0x04020000#32)) .opcodeNotImplemented .decode = true ∧
    faultedWith (after (place 0x40200000#32)) .opcodeNotImplemented .decode = true := by
  decide

/-- LD13, LD14, LD15: past the end of RAM, at the inclusive bound, and one further. -/
theorem test_load_edges :
    faultedWith (after (place 0x8C220000#32 [(1, 0x801FFFFE#32)])) (.outOfBounds 0x801FFFFE#32 0x1FFFFE 4) .execute = true ∧
    faultedWith (after (place 0x80220000#32 [(1, 0x80200000#32)])) (.outOfBounds 0x80200000#32 0x200000 1) .execute = true ∧
    faultedWith (after (place 0x80220000#32 [(1, 0x80200001#32)])) (.addressNotMapped 0x80200001#32) .execute = true := by
  decide

/-- ST6, ST8, ST11: at the BIOS's inclusive bound a store does nothing, across the end of RAM it writes no byte, and isolated it is not
even translated. -/
theorem test_store_edges :
    (after (place 0xAC220000#32 [(1, 0xBFC80000#32)])).halt = .running ∧
    (after (place 0xAC220000#32 [(1, 0x801FFFFE#32), (2, 0xAABBCCDD#32)])).ram = [] ∧
    (after (place 0xAC220000#32 [(1, 0x1F000000#32)] 0x10000#32)).halt = .running := by
  decide

/-- The spellings that differ from the constructor's (R100; DC7). -/
theorem test_unlisted_names :
    UnlistedName.text .cop0Operation = "COP0 operation" ∧ UnlistedName.text .brk = "BREAK" := by decide

/-- The ordinals of the taxonomy (R300, D27). -/
theorem test_condition_codes :
    Condition.code .opcodeNotImplemented = 1 ∧ Condition.code (.sizeMismatch 0) = 7 := by decide

/-! ### Witnesses -/

/-- ADD r3,r1,r2 at the reset pc, with two small operands. -/
def adding : State := place 0x00221820#32 [(1, 1#32), (2, 2#32)]

/-- The same, overflowing. -/
def overflowing : State := place 0x00221820#32 [(1, 0x7FFFFFFF#32), (2, 1#32)]

/-- SYSCALL at the reset pc. -/
def calling : State := place 0x0000000C#32

/-- An Empty word at the reset pc. -/
def empty : State := place 0x9C000000#32

/-- A pc in no window. -/
def astray : State := { State.reset with pc := 0x1F800000#32 }

/-- SW r2,4(r1) in RAM, storing ADDU r3,r1,r2 over the next word. -/
def modifying : State :=
  State.withFetchWord { writeAll State.reset [(1, 0x80000000#32), (2, 0x00221821#32)] with pc := 0x80000000#32 } 32 0xAC220004

theorem witness_DecodeThenEncode : decode 0x002218A0#32 = .ok (.add 3 1 2 2) := by decide

theorem witness_RowWordsDecodeToTheirRow :
    0x002218A0#32 &&& Instr.rowMask (.add 0 0 0 0) = Instr.rowMatch (.add 0 0 0 0) ∧
    0x43FFFFFF#32 &&& Instr.rowMask (.cop0Operation 0) = Instr.rowMatch (.cop0Operation 0) := by decide

/-- Both sides of the equivalence occur: an Empty word, and a word with a row's fixed bits. -/
theorem witness_OnlyRowWordsDecode :
    decode 0x40200000#32 = .error (.emptyCop0 1) ∧
    0x40400000#32 &&& Instr.rowMask (.cfc0 0) = Instr.rowMatch (.cfc0 0) := by decide

theorem witness_RegisterFilePorts : (31 : RegIndex) ≠ 0#5 ∧ (1 : RegIndex) ≠ 31 := by decide

theorem witness_StepRunsTheDecodedInstruction :
    (adding.halt = .running ∧ adding.memRead adding.pc .word = .ok 0x00221820#32 ∧
      decode 0x00221820#32 = .ok (.add 3 1 2 0)) ∧
    (calling.halt = .running ∧ calling.memRead calling.pc .word = .ok 0x0000000C#32 ∧
      decode 0x0000000C#32 = .ok (.syscall 0)) := by decide

theorem witness_StepEnabledExactlyWhenRunning : adding.halt = .running ∧ (after calling).halt ≠ .running := by decide

/-- A step that ends the run, one for each phase: for FaultsArePrecise, FaultConditionsByPhase and IllegalWriteIsNeverRaised. -/
theorem witness_FaultsArePrecise :
    (∃ t r, step astray = .next t ∧ t.halt = .faulted r ∧ r.phase = .fetch) ∧
    (∃ t r, step empty = .next t ∧ t.halt = .faulted r ∧ r.phase = .decode) ∧
    (∃ t r, step overflowing = .next t ∧ t.halt = .faulted r ∧ r.phase = .execute) :=
  ⟨⟨_, ⟨.addressNotMapped 0x1F800000#32, .fetch, 0x1F800000#32, none⟩, steps (by decide), by decide, rfl⟩,
    ⟨_, ⟨.opcodeNotImplemented, .decode, 0xBFC00000#32, some 0x9C000000#32⟩, steps (by decide), by decide, rfl⟩,
    ⟨_, ⟨.arithmeticOverflow, .execute, 0xBFC00000#32, some 0x00221820#32⟩, steps (by decide), by decide, rfl⟩⟩

theorem witness_FaultConditionsByPhase : ∃ t r, step overflowing = .next t ∧ t.halt = .faulted r :=
  ⟨_, ⟨.arithmeticOverflow, .execute, 0xBFC00000#32, some 0x00221820#32⟩, steps (by decide), by decide⟩

theorem witness_IllegalWriteIsNeverRaised : ∃ t r, step empty = .next t ∧ t.halt = .faulted r :=
  ⟨_, ⟨.opcodeNotImplemented, .decode, 0xBFC00000#32, some 0x9C000000#32⟩, steps (by decide), by decide⟩

theorem witness_RefusalsAreUnlistedWords : ∃ t r, step calling = .next t ∧ t.halt = .refused r :=
  ⟨_, ⟨0xBFC00000#32, 0x0000000C#32, .syscall⟩, steps (by decide), by decide⟩

theorem witness_UnlistedWordsAreRefused :
    calling.halt = .running ∧ calling.fetch = .ok 0x0000000C#32 ∧ decode 0x0000000C#32 = .ok (.syscall 0) ∧
    Instr.unlistedName (.syscall 0) = some .syscall ∧ calling.config.unlistedPolicy = .refuse := by decide

theorem witness_EmptyEntriesRaise :
    empty.halt = .running ∧ empty.fetch = .ok 0x9C000000#32 ∧ decode 0x9C000000#32 = .error (.emptyPrimary 0x27) := by decide

theorem adding_runs : adding.Runs (.add 3 1 2 0) := ⟨by decide, 0x00221820#32, by decide, by decide⟩

/-- A pending load to another register than the one written, and one to the same. -/
theorem witness_LoadsLandOneStepLater :
    (State.Runs { adding with lq0 := some ⟨7, 42#32⟩ } (.add 3 1 2 0) ∧
      (∃ t, StepCompletes { adding with lq0 := some ⟨7, 42#32⟩ } t) ∧ Instr.directDest (.add 3 1 2 0) ≠ some 7) ∧
    (State.Runs { adding with lq0 := some ⟨3, 42#32⟩ } (.add 3 1 2 0) ∧
      (∃ t, StepCompletes { adding with lq0 := some ⟨3, 42#32⟩ } t) ∧ Instr.directDest (.add 3 1 2 0) = some 3) :=
  ⟨⟨⟨by decide, 0x00221820#32, by decide, by decide⟩, ⟨_, steps (by decide), by decide⟩, by decide⟩,
    ⟨⟨by decide, 0x00221820#32, by decide, by decide⟩, ⟨_, steps (by decide), by decide⟩, by decide⟩⟩

/-- BEQ r0,r0,3 at the reset pc: always taken. -/
def branching : State := place 0x10000003#32

/-- A taken branch whose next step completes, the same in the delay slot of another branch, and an instruction that schedules
none. R230: the target of offset 3 is A + 16. -/
theorem witness_BranchesLandOneStepLater :
    (branching.Runs (.beq 0 0 3) ∧ StepCompletes branching (after branching) ∧
      Instr.scheduledTarget { branching with pc := branching.pc + 4#32 } (.beq 0 0 3) = some 0xBFC00010#32 ∧
      StepCompletes (after branching) (after (after branching))) ∧
    (State.Runs { branching with bq0 := some ⟨0xBFC00100#32⟩ } (.beq 0 0 3) ∧
      ∃ t, StepCompletes { branching with bq0 := some ⟨0xBFC00100#32⟩ } t) ∧
    adding.Runs (.add 3 1 2 0) ∧ (∃ t, StepCompletes adding t) ∧
      Instr.scheduledTarget { adding with pc := adding.pc + 4#32 } (.add 3 1 2 0) = none :=
  ⟨⟨⟨by decide, 0x10000003#32, by decide, by decide⟩, ⟨steps (by decide), by decide⟩, by decide, steps (by decide), by decide⟩,
    ⟨⟨by decide, 0x10000003#32, by decide, by decide⟩, _, steps (by decide), by decide⟩,
    adding_runs, ⟨_, steps (by decide), by decide⟩, rfl⟩

/-- A fetch that raises, a step that ends the run after its fetch, and one that goes on. -/
theorem witness_OnlyTheStepWritesThePc :
    (∃ t, step astray = .next t) ∧ astray.fetch = .error (.addressNotMapped 0x1F800000#32) ∧
    (∃ t, step calling = .next t ∧ t.halt ≠ .running) ∧ calling.fetch = .ok 0x0000000C#32 ∧
    (∃ t, step adding = .next t ∧ t.halt = .running) ∧ exec (.add 3 1 2 0) adding = .next (stateOf adding (exec (.add 3 1 2 0) adding)) :=
  ⟨⟨_, steps (by decide)⟩, by decide, ⟨_, steps (by decide), by decide⟩, by decide, ⟨_, steps (by decide), by decide⟩,
    eq_next (by decide)⟩

/-- With nothing pending, no load targets r9. -/
theorem witness_RegistersReachedByAStep :
    adding.Runs (.add 3 1 2 0) ∧ (∃ t, StepCompletes adding t) ∧ Instr.directDest (.add 3 1 2 0) ≠ some 9 ∧
    adding.lq0 = none ∧ adding.lq1 = none :=
  ⟨adding_runs, ⟨_, steps (by decide), by decide⟩, by decide, by decide, by decide⟩

theorem witness_StepKeepsInvariant : modifying.Inv ∧ ∃ t, step modifying = .next t :=
  ⟨by decide, _, steps (by decide)⟩

/-- Parameters with an image of the right length, no byte of it blank. -/
def filled : Params := { resetParams with biosImage := List.replicate 0x80000 1#8 }

theorem filled_image : filled.biosImage.length = 0x80000 := List.length_replicate

theorem witness_ConstructionMeetsInvariant : ∃ s, construct filled = .ok s := ⟨_, if_pos filled_image⟩

theorem witness_BiosAndParametersNeverChange : ∃ t, step modifying = .next t := ⟨_, steps (by decide)⟩

/-- A step of an instruction that is no store, and a step of a store under isolation. -/
theorem witness_OnlyUnisolatedStoresChangeRam :
    ((∃ t, step adding = .next t) ∧ adding.Runs (.add 3 1 2 0) ∧
      ∀ rt rs imm, (.add 3 1 2 0 : Instr) ≠ .sb rt rs imm ∧ (.add 3 1 2 0 : Instr) ≠ .sh rt rs imm ∧
        (.add 3 1 2 0 : Instr) ≠ .sw rt rs imm) ∧
    ((∃ t, step (place 0xAC220000#32 [(1, 0x80000000#32), (2, 5#32)] 0x10000#32) = .next t) ∧
      ((place 0xAC220000#32 [(1, 0x80000000#32), (2, 5#32)] 0x10000#32).getControl 12#5).getLsbD 16 = true) :=
  ⟨⟨⟨_, steps (by decide)⟩, adding_runs, fun _ _ _ => by simp⟩, ⟨_, steps (by decide)⟩, by decide⟩

theorem witness_ControlsChangeOnlyByMtc0 :
    (∃ t, step (place 0x40806800#32) = .next t) ∧ (13 : RegIndex) ≠ 12#5 ∧ (∃ t, step adding = .next t) ∧
    adding.Runs (.add 3 1 2 0) ∧ ∀ rt rd low, (.add 3 1 2 0 : Instr) ≠ .mtc0 rt rd low :=
  ⟨⟨_, steps (by decide)⟩, by decide, ⟨_, steps (by decide)⟩, adding_runs, fun _ _ _ => by simp⟩

theorem witness_ConstructionChecksTheImage :
    (Params.biosImage { filled with biosImage := List.replicate 0x7FFFF 1#8 }).length ≠ 0x80000 ∧
    filled.biosImage.length = 0x80000 ∧
    ∃ t r, step overflowing = .next t ∧ t.halt = .faulted r := by
  refine ⟨?_, filled_image, _, ⟨.arithmeticOverflow, .execute, 0xBFC00000#32, some 0x00221820#32⟩, steps (by decide), by decide⟩
  rw [List.length_replicate]
  decide

theorem witness_ConstructedState : filled.biosImage.length = 0x80000 := filled_image

/-- Two windows that overlap at one address: the first answers. Its two bounds belong to it; the next addresses do not. -/
theorem witness_ResolveIsFirstMatch :
    resolve [⟨.ram, 0x100, 0x10⟩, ⟨.bios, 0x110, 0x10⟩] 0x100#32 = some ⟨.ram, 0⟩ ∧
    resolve [⟨.ram, 0x100, 0x10⟩, ⟨.bios, 0x110, 0x10⟩] 0x110#32 = some ⟨.ram, 0x10⟩ ∧
    resolve [⟨.ram, 0x100, 0x10⟩, ⟨.bios, 0x110, 0x10⟩] 0x111#32 = some ⟨.bios, 1⟩ ∧
    resolve [⟨.ram, 0x100, 0x10⟩, ⟨.bios, 0x110, 0x10⟩] 0xFF#32 = none ∧
    resolve [⟨.ram, 0x100, 0x10⟩, ⟨.bios, 0x110, 0x10⟩] 0x121#32 = none := by decide

/-- Both bounds of every window are addresses; and the first and the last address of two of the unmapped ranges R55 lists. -/
theorem witness_DefaultWindowsAreDisjoint :
    (∀ win ∈ defaultMemoryMap, (BitVec.ofNat 32 win.base).toNat = win.base ∧
      (BitVec.ofNat 32 (win.base + win.size)).toNat = win.base + win.size) ∧
    resolve defaultMemoryMap 0x00200001#32 = none ∧ resolve defaultMemoryMap 0x1F800000#32 = none ∧
    resolve defaultMemoryMap 0x1F800FFF#32 = none ∧ resolve defaultMemoryMap 0xFFFE0201#32 = none ∧
    resolve defaultMemoryMap 0xFFFFFFFF#32 = none :=
  ⟨by decide, by decide, by decide, by decide, by decide, by decide⟩

/-- The last word of RAM through two windows, and the BIOS's inclusive bound through two. -/
theorem witness_MirrorsShareTheirStore :
    modifying.config.memoryMap = defaultMemoryMap ∧ Window.mk .ram 0x80000000 0x200000 ∈ defaultMemoryMap ∧
    Window.mk .ram 0xA0000000 0x200000 ∈ defaultMemoryMap ∧ 0x1FFFFC ≤ 0x200000 ∧ 0x1FFFFC + 4 ≤ 0x200000 ∧
    modifying.memRead (BitVec.ofNat 32 (0x80000000 + 0x1FFFFC)) .word = .ok 0#32 ∧ Memory.wf modifying.ram = true ∧
    Window.mk .bios 0x1FC00000 0x80000 ∈ defaultMemoryMap ∧ Window.mk .bios 0xBFC00000 0x80000 ∈ defaultMemoryMap := by
  decide

/-- Each clause at its boundary: no window, both stubs, the last word of each store, and one byte further. For TypedRead and, as
far as a write has the clause, for TypedWrite. -/
theorem witness_TypedRead :
    resolve modifying.config.memoryMap 0x200001#32 = none ∧
    resolve modifying.config.memoryMap 0x1F801000#32 = some ⟨.hwreg, 0⟩ ∧
    resolve modifying.config.memoryMap 0xFFFE0200#32 = some ⟨.cachectl, 0x200⟩ ∧
    resolve modifying.config.memoryMap 0x1FFFFD#32 = some ⟨.ram, 0x1FFFFD⟩ ∧ 0x200000 < 0x1FFFFD + widthBytes .word ∧
    resolve modifying.config.memoryMap 0x1FFFFC#32 = some ⟨.ram, 0x1FFFFC⟩ ∧ 0x1FFFFC + widthBytes .word ≤ 0x200000 ∧
    resolve modifying.config.memoryMap 0xBFC7FFFD#32 = some ⟨.bios, 0x7FFFD⟩ ∧ 0x80000 < 0x7FFFD + widthBytes .word ∧
    resolve modifying.config.memoryMap 0xBFC7FFFC#32 = some ⟨.bios, 0x7FFFC⟩ ∧ 0x7FFFC + widthBytes .word ≤ 0x80000 := by
  decide

theorem witness_TypedWrite :
    Memory.wf modifying.ram = true ∧ resolve modifying.config.memoryMap 0x200001#32 = none ∧
    resolve modifying.config.memoryMap 0xBFC80000#32 = some ⟨.bios, 0x80000⟩ ∧ MemorySegment.bios ≠ .ram ∧
    resolve modifying.config.memoryMap 0x1FFFFD#32 = some ⟨.ram, 0x1FFFFD⟩ ∧ 0x200000 < 0x1FFFFD + widthBytes .word ∧
    resolve modifying.config.memoryMap 0x1FFFFC#32 = some ⟨.ram, 0x1FFFFC⟩ ∧ 0x1FFFFC + widthBytes .word ≤ 0x200000 := by
  decide

theorem witness_UnmappedAccessRaises :
    (∀ u ∈ astray.config.memoryMap, ¬ (u.base ≤ (0x1F800000#32).toNat ∧ (0x1F800000#32).toNat ≤ u.base + u.size)) ∧
    astray.halt = .running ∧ astray.pc = 0x1F800000#32 := by decide

theorem witness_StoresAreSeenByTheNextFetch :
    modifying.Runs (.sw 2 1 4) ∧ StepCompletes modifying (after modifying) ∧ Memory.wf modifying.ram = true ∧
    (modifying.getControl 12#5).getLsbD 16 = false ∧
    resolve modifying.config.memoryMap (effectiveAddress modifying 1 4) = some ⟨.ram, 4⟩ ∧
    resolve (after modifying).config.memoryMap (after modifying).pc = some ⟨.ram, 4⟩ :=
  ⟨⟨by decide, 0xAC220004#32, by decide, by decide⟩, ⟨steps (by decide), by decide⟩, by decide, by decide, by decide, by decide⟩

/-- The first word of RAM and the last. -/
theorem witness_MixedWidthView :
    Memory.wf modifying.ram = true ∧ resolve modifying.config.memoryMap 0x80000000#32 = some ⟨.ram, 0⟩ ∧
    resolve modifying.config.memoryMap (0x80000000#32 + 1#32) = some ⟨.ram, 0 + 1⟩ ∧
    resolve modifying.config.memoryMap (0x80000000#32 + 2#32) = some ⟨.ram, 0 + 2⟩ ∧ 0x1FFFFC + 4 ≤ 0x200000 ∧
    resolve modifying.config.memoryMap 0x1FFFFC#32 = some ⟨.ram, 0x1FFFFC⟩ ∧
    resolve modifying.config.memoryMap (0x1FFFFC#32 + 1#32) = some ⟨.ram, 0x1FFFFC + 1⟩ ∧
    resolve modifying.config.memoryMap (0x1FFFFC#32 + 2#32) = some ⟨.ram, 0x1FFFFC + 2⟩ := by decide

/-- In every window of the map: the inclusive bound with one byte, and three bytes before the end with a word. -/
theorem witness_RegionEdges :
    modifying.config.memoryMap = defaultMemoryMap ∧
    ∀ win ∈ defaultMemoryMap, win.size < win.size + widthBytes .byte ∧ win.size - 3 ≤ win.size ∧
      win.size < win.size - 3 + widthBytes .word := by decide

/-- Both ends of the range of sums, and one past each. -/
theorem witness_SignedAdds :
    (-2 ^ 31 ≤ ((place 0#32 [(1, 0x80000000#32), (2, 0#32)]).getReg 1).toInt +
        ((place 0#32 [(1, 0x80000000#32), (2, 0#32)]).getReg 2).toInt) ∧
    ((place 0#32 [(1, 0x7FFFFFFE#32), (2, 1#32)]).getReg 1).toInt +
        ((place 0#32 [(1, 0x7FFFFFFE#32), (2, 1#32)]).getReg 2).toInt ≤ 2 ^ 31 - 1 ∧
    ((place 0#32 [(1, 0x80000000#32), (2, 0xFFFFFFFF#32)]).getReg 1).toInt +
        ((place 0#32 [(1, 0x80000000#32), (2, 0xFFFFFFFF#32)]).getReg 2).toInt < -2 ^ 31 ∧
    2 ^ 31 - 1 < (overflowing.getReg 1).toInt + (overflowing.getReg 2).toInt ∧
    2 ^ 31 - 1 < (overflowing.getReg 1).toInt + (1 : BitVec 16).toInt ∧
    ((place 0#32 [(1, 0x80000000#32)]).getReg 1).toInt + (0xFFFF : BitVec 16).toInt < -2 ^ 31 ∧
    (-2 ^ 31 ≤ (adding.getReg 1).toInt + (0x8000 : BitVec 16).toInt) ∧
    (adding.getReg 1).toInt + (0x8000 : BitVec 16).toInt ≤ 2 ^ 31 - 1 := by decide

/-- Reads that answer, at each width. -/
theorem witness_LoadsScheduleWhatTheyRead :
    modifying.memRead (effectiveAddress modifying 1 0) .byte = .ok 0x04#32 ∧
    modifying.memRead (effectiveAddress modifying 1 0) .half = .ok 0x0004#32 ∧
    modifying.memRead (effectiveAddress modifying 1 0) .word = .ok 0xAC220004#32 := by decide

/-- Reads that raise, at each width: outside every window, and past the end of RAM. -/
theorem witness_LoadsRaiseWhatTheReadRaises :
    (place 0#32 [(1, 0x1F800000#32)]).memRead (effectiveAddress (place 0#32 [(1, 0x1F800000#32)]) 1 0) .byte =
      .error (.addressNotMapped 0x1F800000#32) ∧
    (place 0#32 [(1, 0x801FFFFF#32)]).memRead (effectiveAddress (place 0#32 [(1, 0x801FFFFF#32)]) 1 0) .half =
      .error (.outOfBounds 0x801FFFFF#32 0x1FFFFF 2) ∧
    (place 0#32 [(1, 0x801FFFFD#32)]).memRead (effectiveAddress (place 0#32 [(1, 0x801FFFFD#32)]) 1 0) .word =
      .error (.outOfBounds 0x801FFFFD#32 0x1FFFFD 4) := by decide

/-- The last byte, half-word and word of RAM. -/
theorem witness_StoresWriteRam :
    Memory.wf modifying.ram = true ∧ (modifying.getControl 12#5).getLsbD 16 = false ∧
    resolve modifying.config.memoryMap (effectiveAddress (place 0#32 [(1, 0x801FFFFF#32)]) 1 0) = some ⟨.ram, 0x1FFFFF⟩ ∧
    0x1FFFFF + 1 ≤ 0x200000 ∧
    resolve modifying.config.memoryMap (effectiveAddress (place 0#32 [(1, 0x801FFFFE#32)]) 1 0) = some ⟨.ram, 0x1FFFFE⟩ ∧
    0x1FFFFE + 2 ≤ 0x200000 ∧
    resolve modifying.config.memoryMap (effectiveAddress (place 0#32 [(1, 0x801FFFFC#32)]) 1 0) = some ⟨.ram, 0x1FFFFC⟩ ∧
    0x1FFFFC + 4 ≤ 0x200000 := by decide

/-- Isolation on; and isolation off with the BIOS's inclusive bound. -/
theorem witness_StoresThatDoNothing :
    ((place 0#32 [] 0x10000#32).getControl 12#5).getLsbD 16 = true ∧
    resolve (place 0#32 [(1, 0xBFC80000#32)]).config.memoryMap (effectiveAddress (place 0#32 [(1, 0xBFC80000#32)]) 1 0) =
      some ⟨.bios, 0x80000⟩ ∧ MemorySegment.bios ≠ .ram := by decide

theorem witness_StoresRaise :
    ((place 0#32 [(1, 0x80200001#32)]).getControl 12#5).getLsbD 16 = false ∧
    resolve (place 0#32 [(1, 0x80200001#32)]).config.memoryMap (effectiveAddress (place 0#32 [(1, 0x80200001#32)]) 1 0) = none ∧
    resolve (place 0#32 [(1, 0x80200000#32)]).config.memoryMap (effectiveAddress (place 0#32 [(1, 0x80200000#32)]) 1 0) =
      some ⟨.ram, 0x200000⟩ ∧ 0x200000 < 0x200000 + 1 ∧
    resolve (place 0#32 [(1, 0x801FFFFD#32)]).config.memoryMap (effectiveAddress (place 0#32 [(1, 0x801FFFFD#32)]) 1 0) =
      some ⟨.ram, 0x1FFFFD⟩ ∧ 0x200000 < 0x1FFFFD + 4 := by decide

/-- The status register with any value, another register with zero, and another with a nonzero value. -/
theorem witness_MoveToControl :
    ((12 : RegIndex) = 12#5 ∨ adding.getReg 1 = 0#32) ∧ ((13 : RegIndex) = 12#5 ∨ adding.getReg 0 = 0#32) ∧
    ¬ ((13 : RegIndex) = 12#5 ∨ adding.getReg 1 = 0#32) := by decide

theorem witness_UnlistedInstructionsHalt :
    Instr.unlistedName (.syscall 0) = some .syscall ∧ calling.config.unlistedPolicy = .refuse ∧
    (lenient calling).config.unlistedPolicy = .notImplemented := by decide

theorem witness_HostTurnsAndSnapshot :
    adding.pc ∈ [0xBFC00000#32] ∧ adding.pc ∉ [0xBFC00004#32] ∧ filled.ramInit.length = 0x200000 ∧
    filled.biosImage.length = 0x80000 :=
  ⟨by decide, by decide, filled.ramInit_length, filled_image⟩

end Sys2Proof.Tests
end

section
/-! The statements of 00_scope.md: faults are precise (R13), and what construction and reset give (R7, R38, R52, R340). -/

namespace Sys2Proof

/-- What the decoder answers encodes to the word: the instruction carries every bit it was decoded from (R94, R95). -/
theorem encode_of_decode {w : Word} {i : Instr} (h : decode w = .ok i) : encode i = w := by
  unfold decode at h
  split at h
  case h_1 h0 => exact encode_of_decodeSpecial h0 h
  case h_2 h0 => exact encode_of_decodeRegimm h0 h
  case h_3 h0 => exact encode_of_decodeCop0 h0 h
  all_goals cases h
  all_goals
    rename_i h0
    simp only [encode]
    rw [← h0]
    simp only [iType_fields, jType_fields]

namespace Machine

/-! ### Faults -/

/-- A meaning that faults changes `halt` alone, and its record holds the fetch's address and the instruction's word. -/
theorem execCase_faulted {i : Instr} {s t : State} {r : FaultRecord} (h : ExecCase i s t) (hr : s.halt = .running)
    (hf : t.halt = .faulted r) :
    r.phase ≠ .fetch ∧ r.address = s.fetchAddress ∧ r.word = some (encode i) ∧ t = { s with halt := .faulted r } := by
  rcases execCase_halt h hr with ⟨ht, -⟩ | ⟨c, rfl, -⟩ | ⟨rfl, -⟩ | ⟨n, -, rfl, -⟩
  · rw [ht] at hf; cases hf
  · cases hf; exact ⟨nofun, rfl, rfl, rfl⟩
  · cases hf; exact ⟨nofun, rfl, rfl, rfl⟩
  · cases hf

/-- Settles O10, by the three ways a step can answer: the fetch raised, no instruction, an instruction executed. -/
theorem faultsArePrecise : Obligations.FaultsArePrecise := by
  intro s t r hs ht
  obtain ⟨hr, hc⟩ := step_cases hs
  cases hc with
  | fetchRaised c hf =>
    cases ht
    exact ⟨rfl, .inl ⟨rfl, rfl, hf, rfl⟩⟩
  | noInstruction w e hf hd =>
    cases ht
    exact ⟨fetchAddress_advancePc s, .inr ⟨nofun, ⟨w, hf, rfl⟩, rfl⟩⟩
  | executed w i u hf hd he hc =>
    rw [finish_halt] at ht
    obtain ⟨hp, ha, hw, hu⟩ := execCase_faulted hc hr ht
    rw [encode_of_decode hd] at hw
    rw [fetchAddress_advancePc] at ha
    rw [finish_of_not_running (by simp [ht])]
    exact ⟨ha, .inr ⟨hp, ⟨w, hf, hw⟩, hu⟩⟩

/-! ### Construction -/

/-- The state `construct` answers for a BIOS image of the right length (R38, R340). -/
def Params.initial (p : Params) : State where
  gpr := Vector.replicate 31 p.sentinel
  pc := p.biosEntry
  cop0 := (Vector.replicate 32 p.sentinel).setIfInBounds statusIndex.toNat p.statusReset
  lq0 := none
  lq1 := none
  bq0 := none
  bq1 := none
  ram := Memory.ofBytes p.ramInit
  bios := Memory.ofBytes p.biosImage
  halt := .running
  config := p.config

/-- Construction answers a state exactly for an image of the BIOS's size, and then the initial one (R340, R341). -/
theorem construct_ok {p : Params} {s : State} :
    construct p = .ok s ↔ p.biosImage.length = biosSize ∧ s = p.initial := by
  by_cases h : p.biosImage.length = biosSize
  · rw [show construct p = .ok p.initial from if_pos h]
    simp [h, eq_comm]
  · rw [show construct p = .error (.sizeMismatch p.biosImage.length) from if_neg h]
    simp [h]

/-- A register file filled with one word reads it in every register but r0 (R21). -/
theorem readGpr_replicate (v : Word) (r : RegIndex) :
    readGpr (Vector.replicate 31 v) r = if r = 0#5 then 0#32 else v := by
  have hb : r.toNat - 1 < 31 := by have := r.isLt; omega
  simp [readGpr, Vector.getD, hb]

theorem getReg_initial (p : Params) (r : RegIndex) : p.initial.getReg r = if r = 0#5 then 0#32 else p.sentinel :=
  readGpr_replicate p.sentinel r

/-- The cop0 bank of the initial state: the sentinel everywhere, with the status register written (R38). -/
theorem getControl_initial (p : Params) (j : RegIndex) :
    p.initial.getControl j = if j = 12#5 then p.statusReset else p.sentinel := by
  have hb : j.toNat < 32 := j.isLt
  have hfill : ({ p.initial with cop0 := Vector.replicate 32 p.sentinel } : State).getControl j = p.sentinel := by
    simp [State.getControl, Vector.getD, hb]
  rw [← hfill]
  exact getControl_putControl { p.initial with cop0 := Vector.replicate 32 p.sentinel } j statusIndex p.statusReset

/-- Inside the sequence a store was filled from, the byte read is the sequence's own (R34). -/
theorem getElem?_eq_read_ofBytes {bs : List Byte} {off : Nat} (h : off < bs.length) :
    bs[off]? = some (Memory.read (Memory.ofBytes bs) off) := by
  simp [read_ofBytes, h]

/-- A filled store lies inside a region as long as the sequence. -/
theorem fits_ofBytes {bs : List Byte} {size : Nat} (h : bs.length = size) :
    Memory.fits size (Memory.ofBytes bs) = true :=
  fits_ofBytesFrom bs 0 size (by omega)

/-- Settles O22: both stores are filled from sequences of their sizes, and the queues are empty. -/
theorem constructionMeetsInvariant : Obligations.ConstructionMeetsInvariant := by
  intro p s h
  obtain ⟨hlen, rfl⟩ := construct_ok.mp h
  exact ⟨wf_ofBytes _, fits_ofBytes p.ramInit_length, wf_ofBytes _, fits_ofBytes hlen, rfl, rfl⟩

/-- Settles O27, by the reads of the initial state. -/
theorem constructedState : Obligations.ConstructedState := by
  intro p hlen
  refine ⟨p.initial, construct_ok.mpr ⟨hlen, rfl⟩, p.sentinel_ne_zero, p.ramInit_length, getReg_initial p,
    getControl_initial p, rfl, rfl, rfl, rfl, rfl, fun off h => ?_, fun off h => ?_, rfl, rfl⟩
  · exact getElem?_eq_read_ofBytes (h.trans_eq p.ramInit_length.symm)
  · exact getElem?_eq_read_ofBytes (h.trans_eq hlen.symm)

/-! ### Reset -/

/-- The reset state is the one built from the defaults, since all-blank sequences fill empty stores (R340). -/
theorem initial_resetParams : resetParams.initial = State.reset := by
  simp only [Params.initial, resetParams, ofBytes_replicate_blank]
  rfl

/-- Settles O28: the reset state is the constructed one at the defaults, and reads as that does. -/
theorem resetValues : Obligations.ResetValues := by
  unfold Obligations.ResetValues
  rw [← initial_resetParams]
  refine ⟨rfl, getControl_initial _ 12#5, getReg_initial _ 0#5, rfl, rfl, rfl, rfl, rfl, rfl, rfl,
    resetParams.sentinel, resetParams.sentinel_ne_zero, fun r hr => ?_, fun j hj => ?_⟩
  · rw [getReg_initial, if_neg hr]
  · rw [getControl_initial, if_neg hj]

end Machine
end Sys2Proof
end

section
/-! The statements of 10_state.md: what every step keeps (R34, R132), what a step does to the pc, the registers and the control
registers (R24, R25, R29), when it is enabled (R35), and the host's view (R39). -/

namespace Sys2Proof
namespace Machine

/-! ### What a meaning leaves alone -/

/-- Refusing an Unlisted word, or raising for it, writes `halt` alone (R100, R104). -/
theorem unlisted_eq (s : State) (w : Word) (n : UnlistedName) :
    s.unlisted w n = { s with halt := (s.unlisted w n).halt } := by
  unfold State.unlisted
  split <;> rfl

/-- No instruction writes the pc, the BIOS or the parameters (R25, R34, R37). -/
theorem execCase_keeps {i : Instr} {s t : State} (h : ExecCase i s t) :
    t.pc = s.pc ∧ t.bios = s.bios ∧ t.config = s.config := by
  cases h with
  | unlisted n hn => rw [unlisted_eq]; exact ⟨rfl, rfl, rfl⟩
  | _ => exact ⟨rfl, rfl, rfl⟩

/-- An instruction keeps RAM canonical and inside its size: a store writes inside the bounds (R34, R58, R59). -/
theorem execCase_keeps_ram_form {i : Instr} {s t : State} (h : ExecCase i s t) (hwf : Memory.wf s.ram = true)
    (hfits : Memory.fits ramSize s.ram = true) : Memory.wf t.ram = true ∧ Memory.fits ramSize t.ram = true := by
  cases h with
  | stored rt rs imm off n v hi hs hb => exact ⟨wf_writeBytes hwf off n v, fits_writeBytes hfits off n v hb⟩
  | unlisted n hn => rw [unlisted_eq]; exact ⟨hwf, hfits⟩
  | _ => exact ⟨hwf, hfits⟩

/-- An instruction leaves every control register alone, unless it is an accepted MTC0 (R27, R29). -/
theorem execCase_controls {i : Instr} {s t : State} (h : ExecCase i s t) :
    KeepsControls s t ∨ ∃ rt rd low, i = .mtc0 rt rd low ∧ (rd = 12#5 ∨ s.getReg rt = 0#32) ∧
      t = s.putControl rd (s.getReg rt) := by
  cases h with
  | control rt rd low hi ha => exact .inr ⟨rt, rd, low, hi, ha, rfl⟩
  | unlisted n hn => rw [unlisted_eq]; exact .inl fun _ => rfl
  | _ => exact .inl fun _ => rfl

/-- A meaning that ends the run writes `halt` alone (R13, R302, R307). -/
theorem execCase_ended {i : Instr} {s t : State} (h : ExecCase i s t) (hr : s.halt = .running) (ht : t.halt ≠ .running) :
    t = { s with halt := t.halt } := by
  rcases execCase_halt h hr with ⟨hrun, -⟩ | ⟨c, rfl, -⟩ | ⟨rfl, -⟩ | ⟨n, -, rfl, -⟩
  · exact absurd hrun ht
  · rfl
  · rfl
  · rfl

/-! ### The two ways a step can answer -/

/-- A step that ends the run writes `halt`, and the pc exactly when the fetch completed (R13, R302, R307). -/
theorem step_ended {s t : State} (h : step s = .next t) (ht : t.halt ≠ .running) :
    (t = { s with halt := t.halt } ∧ ∃ c, s.fetch = .error c) ∨
      (t = { s.advancePc with halt := t.halt } ∧ ∃ w, s.fetch = .ok w) := by
  obtain ⟨hr, hc⟩ := step_cases h
  cases hc with
  | fetchRaised c hf => exact .inl ⟨rfl, c, hf⟩
  | noInstruction w e hf hd => exact .inr ⟨rfl, w, hf⟩
  | executed w i u hf hd he hc =>
    rw [finish_halt] at ht
    rw [finish_of_not_running ht]
    exact .inr ⟨execCase_ended hc hr ht, w, hf⟩

/-- A step that completes executes an instruction that does not end the run, and then commits (R120). -/
theorem step_completed {s t : State} (h : StepCompletes s t) :
    ∃ i u, s.Runs i ∧ ExecCase i s.advancePc u ∧ u.halt = .running ∧ t = u.commitStep := by
  obtain ⟨hs, ht⟩ := h
  obtain ⟨hr, hc⟩ := step_cases hs
  cases hc with
  | fetchRaised c hf => cases ht
  | noInstruction w e hf hd => cases ht
  | executed w i u hf hd he hc =>
    rw [finish_halt] at ht
    exact ⟨i, u, ⟨hr, w, hf, hd⟩, hc, ht, finish_of_running ht⟩

/-- The fetched word decides which instruction the next step executes. -/
theorem runs_unique {s : State} {i j : Instr} (hi : s.Runs i) (hj : s.Runs j) : i = j := by
  obtain ⟨-, w, hw, hd⟩ := hi
  obtain ⟨-, w', hw', hd'⟩ := hj
  cases hw.symm.trans hw'
  cases hd.symm.trans hd'
  rfl

/-- A completed step on a known instruction is that instruction, and then the commit (R120). -/
theorem completed_of_runs {s t : State} {i : Instr} (hi : s.Runs i) (h : StepCompletes s t) :
    ∃ u, ExecCase i s.advancePc u ∧ u.halt = .running ∧ t = u.commitStep := by
  obtain ⟨j, u, hj, hc, hu, ht⟩ := step_completed h
  cases runs_unique hi hj
  exact ⟨u, hc, hu, ht⟩

/-! ### What every step keeps -/

/-- A step that completes keeps the invariant: RAM keeps its form, and the commit empties position 1 of both queues (R132). -/
theorem completed_inv {s t : State} (hs : s.Inv) (h : StepCompletes s t) : t.Inv := by
  obtain ⟨hramWf, hramFits, hbiosWf, hbiosFits, -, -⟩ := hs
  obtain ⟨i, u, -, hc, -, rfl⟩ := step_completed h
  obtain ⟨hwf, hfits⟩ := execCase_keeps_ram_form hc hramWf hramFits
  obtain ⟨-, hbios, -⟩ := execCase_keeps hc
  rw [← State.advancePc_bios, ← hbios] at hbiosWf hbiosFits
  exact ⟨hwf, hfits, hbiosWf, hbiosFits, rfl, rfl⟩

/-- Settles O20: a step that ends the run leaves the stores and the queues alone, and one that completes keeps the invariant. -/
theorem stepKeepsInvariant : Obligations.StepKeepsInvariant := by
  intro s t hs h
  by_cases ht : t.halt = .running
  · exact completed_inv hs ⟨h, ht⟩
  · rcases step_ended h ht with ⟨e, -⟩ | ⟨e, -⟩
    · rw [e]; exact hs
    · rw [e]; exact hs

/-- Settles O21: both stores and both queues are empty at reset. -/
theorem resetMeetsInvariant : Obligations.ResetMeetsInvariant := ⟨rfl, rfl, rfl, rfl, rfl, rfl⟩

/-- Settles O23: no instruction writes either, and no other part of a step does. -/
theorem biosAndParametersNeverChange : Obligations.BiosAndParametersNeverChange := by
  intro s t h
  by_cases ht : t.halt = .running
  · obtain ⟨i, u, -, hc, -, rfl⟩ := step_completed ⟨h, ht⟩
    exact (execCase_keeps hc).2
  · rcases step_ended h ht with ⟨e, -⟩ | ⟨e, -⟩
    · rw [e]; exact ⟨rfl, rfl⟩
    · rw [e]; exact ⟨rfl, rfl⟩

/-- Settles O9, by where the step stops: at the fetch, at the decoder, or after an instruction, which always answers. -/
theorem stepEnabledExactlyWhenRunning : Obligations.StepEnabledExactlyWhenRunning := by
  refine fun s => ⟨fun hr => ?_, fun hr => ?_⟩
  · cases hf : s.fetch with
    | error c => exact ⟨s.raiseFetch c, by simp [step, hr, hf]⟩
    | ok w =>
      cases hd : decode w with
      | error e => exact ⟨s.advancePc.raiseDecode w, by simp [step, hr, hf, runWord, hd]⟩
      | ok i =>
        obtain ⟨u, he, -⟩ := exec_cases i s.advancePc
        exact ⟨u.finish, step_of_decoded hr hf hd he⟩
  · unfold step
    split
    · rfl
    · rfl
    · next h => exact absurd h hr

/-! ### The pc and the pending branch -/

/-- A step that completes leaves the pc at the branch that was pending, or after the instruction (R25, R130). -/
theorem completed_pc {s t : State} (h : StepCompletes s t) : t.pc = commitPc (s.pc + 4#32) s.bq0 := by
  obtain ⟨i, u, -, hc, hu, rfl⟩ := step_completed h
  obtain ⟨hpc, hbq0, -⟩ := execCase_running hc hu
  rw [State.commitStep_pc, hpc, hbq0, State.advancePc_pc, State.advancePc_bq0]

/-- A step that completes leaves pending the branch of its own instruction, or else the one not yet due (R126, R131). -/
theorem completed_bq0 {s t : State} {i : Instr} (hi : s.Runs i) (h : StepCompletes s t) :
    t.bq0 = ((i.scheduledTarget s.advancePc).map BranchSlot.mk).or s.bq1 := by
  obtain ⟨u, hc, hu, rfl⟩ := completed_of_runs hi h
  obtain ⟨-, -, -, -, -, hbq1⟩ := execCase_running hc hu
  exact hbq1

/-- Settles O17: the pending branch of a completed step, and then where the next one leaves the pc. -/
theorem branchesLandOneStepLater : Obligations.BranchesLandOneStepLater := by
  intro s t i hi h
  have hbq0 := completed_bq0 hi h
  refine ⟨completed_pc h, fun target htarget => ?_, fun htarget => ?_⟩
  · have hpending : t.bq0 = some ⟨target⟩ := by
      rw [hbq0, show i.scheduledTarget s.advancePc = some target from htarget]; rfl
    exact ⟨hpending, fun u hu => by rw [completed_pc hu, hpending]; rfl⟩
  · rw [hbq0, show i.scheduledTarget s.advancePc = none from htarget]; rfl

/-- Settles O18: no meaning writes the pc; then the pc of a step, by whether it completes. -/
theorem onlyTheStepWritesThePc : Obligations.OnlyTheStepWritesThePc := by
  refine ⟨fun i s t h => ?_, fun s t h => ⟨rfl, fun c hf => ?_, fun w hf ht => ?_, fun ht => completed_pc ⟨h, ht⟩⟩⟩
  · obtain ⟨u, he, hc⟩ := exec_cases i s
    cases he.symm.trans h
    exact (execCase_keeps hc).1
  · by_cases ht : t.halt = .running
    · obtain ⟨i, u, ⟨-, w, hw, -⟩, -⟩ := step_completed ⟨h, ht⟩
      cases hf.symm.trans hw
    · rcases step_ended h ht with ⟨e, -⟩ | ⟨-, w, hw⟩
      · rw [e]
      · cases hf.symm.trans hw
  · rcases step_ended h ht with ⟨-, c, hc⟩ | ⟨e, -⟩
    · cases hf.symm.trans hc
    · rw [e]; rfl

/-! ### The registers -/

/-- What is left after a direct write is a load that was there (R127). -/
theorem eq_some_of_dropLoad {slot : Option LoadSlot} {r : RegIndex} {l : LoadSlot} (h : dropLoad slot r = some l) :
    slot = some l := by
  rw [dropLoad_eq_filter] at h
  exact Option.eq_some_of_filter_eq_some h

/-- CommitStep leaves a register alone that the imminent load does not target (R129). -/
theorem getReg_commitStep_of_not_due {s : State} {q : RegIndex} (h : ∀ v, s.lq0 ≠ some ⟨q, v⟩) :
    s.commitStep.getReg q = s.getReg q := by
  rw [getReg_commitStep]
  split
  · next l hl => exact if_neg fun (hq : q = l.reg) => h l.value (by rw [hl, hq])
  · rfl

/-- Settles O19, by what a meaning that does not end the run leaves alone, and by the commit. -/
theorem registersReachedByAStep : Obligations.RegistersReachedByAStep := by
  intro s t i hi h
  obtain ⟨u, hc, hu, rfl⟩ := completed_of_runs hi h
  obtain ⟨-, -, hlq0, hregs, hlq1, -⟩ := execCase_running hc hu
  refine ⟨fun q hq hdue => ?_, hlq1⟩
  have hnotDue : ∀ v, u.lq0 ≠ some ⟨q, v⟩ := by
    intro v hv
    rw [hlq0] at hv
    split at hv
    · exact hdue v (eq_some_of_dropLoad hv)
    · exact hdue v hv
  rw [getReg_commitStep_of_not_due hnotDue]
  exact hregs q hq

/-- Every register but r0 reads its own stored word (R20, R21). -/
theorem getReg_ofNat_succ (s : State) (k : Fin 31) : s.getReg (BitVec.ofNat 5 (k.val + 1)) = s.gpr[k] := by
  have hk := k.isLt
  have hn : (BitVec.ofNat 5 (k.val + 1)).toNat = k.val + 1 := by
    rw [BitVec.toNat_ofNat]; exact Nat.mod_eq_of_lt (by omega)
  have h0 : BitVec.ofNat 5 (k.val + 1) ≠ 0#5 := fun h => by rw [h] at hn; cases hn
  simp [State.getReg, readGpr, h0, hn, Vector.getD, hk]

/-- Settles O6, by what a register file reads after a write. -/
theorem registerFilePorts : Obligations.RegisterFilePorts := by
  refine fun s q r v => ⟨rfl, getReg_ofNat_succ s, rfl, fun hr => ?_, fun hq => ?_⟩
  · exact readGpr_writeGpr_self s.gpr v hr
  · exact readGpr_writeGpr_ne s.gpr v hq

/-! ### The control registers -/

/-- An accepted MTC0 (R29, R271). -/
theorem exec_mtc0_of_accepted {s : State} {rt rd : RegIndex} (h : rd = 12#5 ∨ s.getReg rt = 0#32) (low : BitVec 11) :
    exec (.mtc0 rt rd low) s = .next (s.putControl rd (s.getReg rt)) := by
  have ha := (controlWriteAccepted_iff rd (s.getReg rt)).mpr h
  simp [exec, execMtc0, setControl_ok.mpr ⟨ha, rfl⟩]

/-- A rejected MTC0 (R29, R271). -/
theorem exec_mtc0_of_rejected {s : State} {rt rd : RegIndex} (h : ¬ (rd = 12#5 ∨ s.getReg rt = 0#32)) (low : BitVec 11) :
    exec (.mtc0 rt rd low) s =
      .next (s.raiseExecute (encode (.mtc0 rt rd low)) (.controlRegisterWriteRejected rd (s.getReg rt))) := by
  rw [← controlWriteAccepted_iff] at h
  simp [exec, execMtc0, State.setControl, h]

/-- Settles O58, by the two answers of MTC0. -/
theorem moveToControl : Obligations.MoveToControl := by
  refine fun s rt rd low => ⟨fun h => ?_, fun h => exec_mtc0_of_rejected h low⟩
  refine ⟨_, exec_mtc0_of_accepted h low, ?_, fun j hj => ?_, fun _ => rfl, fun _ => ⟨rfl, rfl⟩, ⟨rfl, rfl, rfl, rfl⟩,
    rfl, rfl, rfl⟩
  · rw [getControl_putControl, if_pos rfl]
  · rw [getControl_putControl, if_neg hj]

/-- A step leaves every control register alone, unless it executes an accepted MTC0: then it writes that one (R27, R29). -/
theorem step_controls {s t : State} (h : step s = .next t) :
    KeepsControls s t ∨ ∃ rt rd low, s.Runs (.mtc0 rt rd low) ∧ (rd = 12#5 ∨ s.getReg rt = 0#32) ∧
      ∀ j, t.getControl j = if j = rd then s.getReg rt else s.getControl j := by
  by_cases ht : t.halt = .running
  · obtain ⟨i, u, hi, hc, -, rfl⟩ := step_completed ⟨h, ht⟩
    rcases execCase_controls hc with hk | ⟨rt, rd, low, rfl, ha, rfl⟩
    · exact .inl hk
    · exact .inr ⟨rt, rd, low, hi, ha, fun j => getControl_putControl s.advancePc j rd (s.getReg rt)⟩
  · rcases step_ended h ht with ⟨e, -⟩ | ⟨e, -⟩
    · rw [e]; exact .inl fun _ => rfl
    · rw [e]; exact .inl fun _ => rfl

/-- Settles O25: the one write is that of an accepted MTC0, of zero when the register is not the status register. -/
theorem controlsChangeOnlyByMtc0 : Obligations.ControlsChangeOnlyByMtc0 := by
  intro s t h
  rcases step_controls h with hk | ⟨rt, rd, low, hrun, ha, hw⟩
  · exact ⟨fun j _ => .inl (hk j), fun _ _ _ => hk⟩
  · refine ⟨fun j hj => ?_, fun i hi hne => absurd (runs_unique hi hrun) (hne rt rd low)⟩
    rw [hw j]
    split
    · next hjrd => exact .inr (ha.resolve_left fun hrd => hj (hjrd.trans hrd))
    · exact .inl rfl

/-! ### The host -/

/-- The index list holds every index at its own place. -/
theorem getElem?_allIndices (r : RegIndex) : allIndices[r.toNat]? = some r := by
  have hr : r.toNat < 32 := r.isLt
  simp [allIndices, hr]

/-- A sequence of a region's length replaces the whole of it (R313). -/
theorem read_ofBytes_take {bs : List Byte} {size off : Nat} (hlen : bs.length = size) (h : off < size) :
    bs[off]? = some (Memory.read (Memory.ofBytes (bs.take size)) off) := by
  subst hlen
  rw [List.take_length]
  exact getElem?_eq_read_ofBytes h

/-- Settles O60, by the two turns of the run loop, the index list of the snapshot, and the reads of a filled store. -/
theorem hostTurnsAndSnapshot : Obligations.HostTurnsAndSnapshot := by
  refine fun s breakpoints resuming bytes => ⟨fun hm hr => ?_, fun h => ?_, fun r => ⟨?_, ?_⟩, rfl, rfl,
    fun hlen off h => read_ofBytes_take hlen h, fun hlen off h => read_ofBytes_take hlen h⟩
  · simp [runLoopTurn, hm, hr]
  · refine if_neg fun hpause => ?_
    rw [Bool.and_eq_true, List.contains_iff_mem] at hpause
    obtain ⟨hm, hr⟩ := hpause
    rcases h with h | h
    · exact h hm
    · simp [h] at hr
  · simp [State.snapshot, getElem?_allIndices]
  · simp [State.snapshot, getElem?_allIndices]

end Machine
end Sys2Proof
end

section
/-! The statements of 20_memory.md: address translation (R52 to R56), the typed accesses and their bounds (R54, R57, R58, R60, R62),
the mixed-width view (R64), and what a step does to RAM (R68, R74, R207). -/

namespace Sys2Proof

/-- The address lies in the window, upper bound included (R52). -/
def Window.holds (win : Window) (a : Word) : Bool := decide (win.base ≤ a.toNat ∧ a.toNat ≤ win.base + win.size)

/-- The place a window gives an address (R53). -/
def Window.locate (win : Window) (a : Word) : SegmentAndOffset := ⟨win.segment, a.toNat - win.base⟩

theorem Window.holds_iff {win : Window} {a : Word} :
    win.holds a = true ↔ win.base ≤ a.toNat ∧ a.toNat ≤ win.base + win.size := decide_eq_true_iff

namespace Machine

/-! ### Address translation -/

/-- `resolve` is a first-match search of the map (R53). -/
theorem resolve_eq_find? (map : List Window) (a : Word) :
    resolve map a = (map.find? (·.holds a)).map (·.locate a) := by
  induction map with
  | nil => rfl
  | cons win rest ih =>
    rw [resolve_cons, List.find?_cons]
    split
    · next h => rw [Window.holds_iff.mpr h]; rfl
    · next h => rw [Bool.eq_false_iff.mpr (mt Window.holds_iff.mp h)]; exact ih

/-- An address resolves to none exactly when no window holds it (R53, R54). -/
theorem resolve_eq_none_iff {map : List Window} {a : Word} :
    resolve map a = none ↔ ∀ u ∈ map, ¬ (u.base ≤ a.toNat ∧ a.toNat ≤ u.base + u.size) := by
  simp only [resolve_eq_find?, Option.map_eq_none_iff, List.find?_eq_none, Window.holds_iff]

/-- An address resolves to what the first window that holds it gives (R53). -/
theorem resolve_eq_some_iff {map : List Window} {a : Word} {p : SegmentAndOffset} :
    resolve map a = some p ↔ ∃ before win after, map = before ++ win :: after ∧
      (∀ u ∈ before, ¬ (u.base ≤ a.toNat ∧ a.toNat ≤ u.base + u.size)) ∧
      win.base ≤ a.toNat ∧ a.toNat ≤ win.base + win.size ∧ p = ⟨win.segment, a.toNat - win.base⟩ := by
  simp only [resolve_eq_find?, Option.map_eq_some_iff, List.find?_eq_some_iff_append, Bool.not_eq_true',
    Bool.eq_false_iff, ne_eq, Window.holds_iff]
  constructor
  · rintro ⟨win, ⟨⟨hlo, hhi⟩, before, after, hmap, hbefore⟩, rfl⟩
    exact ⟨before, win, after, hmap, hbefore, hlo, hhi, rfl⟩
  · rintro ⟨before, win, after, hmap, hbefore, hlo, hhi, rfl⟩
    exact ⟨win, ⟨⟨hlo, hhi⟩, before, after, hmap, hbefore⟩, rfl⟩

/-- Settles O30, by the first-match search. -/
theorem resolveIsFirstMatch : Obligations.ResolveIsFirstMatch :=
  fun _ _ => ⟨fun _ => resolve_eq_some_iff, resolve_eq_none_iff, rfl⟩

/-! ### The default map -/

/-- Any two rows of R52 are apart (R55). -/
theorem defaultMemoryMap_disjoint :
    ∀ u ∈ defaultMemoryMap, ∀ v ∈ defaultMemoryMap, u = v ∨ u.base + u.size < v.base ∨ v.base + v.size < u.base := by
  decide

/-- No row of R52 wraps around the address space. -/
theorem defaultMemoryMap_lt : ∀ win ∈ defaultMemoryMap, win.base + win.size < 2 ^ 32 := by decide

/-- The windows of one segment have one size (R52, R56). -/
theorem defaultMemoryMap_size_eq :
    ∀ u ∈ defaultMemoryMap, ∀ v ∈ defaultMemoryMap, u.segment = v.segment → u.size = v.size := by decide

/-- The windows of RAM and of the BIOS are as long as their stores (R6, R52). -/
theorem defaultMemoryMap_size :
    ∀ win ∈ defaultMemoryMap, (win.segment = .ram → win.size = ramSize) ∧ (win.segment = .bios → win.size = biosSize) := by
  decide

/-- In the default map the byte `k` of a window, `k` at its size included, is at offset `k` of its segment (R52, R55). -/
theorem resolve_window {win : Window} (hw : win ∈ defaultMemoryMap) {k : Nat} (hk : k ≤ win.size) :
    resolve defaultMemoryMap (BitVec.ofNat 32 (win.base + k)) = some ⟨win.segment, k⟩ := by
  have hlt := defaultMemoryMap_lt win hw
  have ha : (BitVec.ofNat 32 (win.base + k)).toNat = win.base + k := by
    rw [BitVec.toNat_ofNat]
    exact Nat.mod_eq_of_lt (by omega)
  rw [resolve_of_disjoint defaultMemoryMap_disjoint hw (by omega) (by omega), ha, Nat.add_sub_cancel_left]

/-- Settles O31, by the disjointness of the rows; the ten ranges are those of the rows. -/
theorem defaultWindowsAreDisjoint : Obligations.DefaultWindowsAreDisjoint := by
  refine ⟨rfl, fun win hw a hlo hhi => resolve_of_disjoint defaultMemoryMap_disjoint hw hlo hhi, fun a => ?_⟩
  rw [resolve_eq_none_iff]
  simp only [defaultMemoryMap, List.forall_mem_cons, List.not_mem_nil, false_implies, implies_true, and_true,
    Nat.zero_le, true_and, Nat.zero_add, Nat.reduceAdd, not_or]

/-! ### The typed accesses -/

/-- `MemRead` of a stub answers 0 (R57, R61). -/
theorem memRead_stub {s : State} {a : Word} {p : SegmentAndOffset} (h : resolve s.config.memoryMap a = some p)
    (hp : p.segment = .hwreg ∨ p.segment = .cachectl) (n : Width) : s.memRead a n = .ok 0#32 := by
  rw [memRead_eq, h]
  rcases hp with hp | hp <;> simp only [hp]

/-- `MemRead` past the end of RAM (R59). -/
theorem memRead_ram_outside {s : State} {a : Word} {off : Nat} {n : Width}
    (h : resolve s.config.memoryMap a = some ⟨.ram, off⟩) (hb : ramSize < off + widthBytes n) :
    s.memRead a n = .error (.outOfBounds a off (widthBytes n)) := by
  rw [memRead_ram h]
  exact if_pos hb

/-- `MemRead` of the BIOS inside its bounds (R57). -/
theorem memRead_bios_inside {s : State} {a : Word} {off : Nat} {n : Width}
    (h : resolve s.config.memoryMap a = some ⟨.bios, off⟩) (hb : off + widthBytes n ≤ biosSize) :
    s.memRead a n = .ok (readBytes s.bios off (widthBytes n)) := by
  rw [memRead_bios h]
  exact if_neg (by omega)

/-- `MemRead` past the end of the BIOS (R59). -/
theorem memRead_bios_outside {s : State} {a : Word} {off : Nat} {n : Width}
    (h : resolve s.config.memoryMap a = some ⟨.bios, off⟩) (hb : biosSize < off + widthBytes n) :
    s.memRead a n = .error (.outOfBounds a off (widthBytes n)) := by
  rw [memRead_bios h]
  exact if_pos hb

/-- A bounds-checked read answers a value exactly inside the bounds: the address is only for the record of a fault (R59). -/
theorem boundedRead_ok {m : Memory} {size off n : Nat} {a v : Word} :
    boundedRead m size a off n = .ok v ↔ off + n ≤ size ∧ readBytes m off n = v := by
  unfold boundedRead
  split
  · next h => simp [Nat.not_le_of_lt h]
  · next h => simp [Nat.le_of_not_lt h]

/-- The value `MemRead` answers depends on where the address resolves, and on nothing else of it (R56, R57). -/
theorem memRead_of_same_place {s : State} {a b m : Word} {n : Width}
    (h : resolve s.config.memoryMap b = resolve s.config.memoryMap a) (hm : s.memRead a n = .ok m) :
    s.memRead b n = .ok m := by
  unfold State.memRead at hm ⊢
  rw [h]
  cases hr : resolve s.config.memoryMap a with
  | none => rw [hr] at hm; cases hm
  | some p =>
    rw [hr] at hm
    obtain ⟨segment, off⟩ := p
    cases segment with
    | ram => exact boundedRead_ok.mpr (boundedRead_ok.mp hm)
    | bios => exact boundedRead_ok.mpr (boundedRead_ok.mp hm)
    | hwreg => exact hm
    | cachectl => exact hm

/-- The value read from a store is the little-endian sum of its bytes, at every width (R57, R63). -/
theorem readBytes_width_toNat (m : Memory) (off : Nat) (n : Width) :
    (readBytes m off (widthBytes n)).toNat =
      ∑ j ∈ Finset.range (widthBytes n), (Memory.read m (off + j)).toNat * 256 ^ j := by
  have hn : widthBytes n ≤ 4 := by cases n <;> decide
  rw [readBytes_toNat m off _ hn, bytesValue_eq_sum]

/-- Settles O33, by where the address resolves. -/
theorem typedRead : Obligations.TypedRead := by
  refine fun s a n => ⟨fun h => memRead_unmapped h n, fun off h => ?_, fun off h => ⟨memRead_ram_outside h, fun hb => ?_⟩,
    fun off h => ⟨memRead_bios_outside h, fun hb => ?_⟩⟩
  · rcases h with h | h
    · exact memRead_stub h (.inl rfl) n
    · exact memRead_stub h (.inr rfl) n
  · exact ⟨_, memRead_ram_inside h hb, readBytes_width_toNat s.ram off n⟩
  · exact ⟨_, memRead_bios_inside h hb, readBytes_width_toNat s.bios off n⟩

/-- Settles O34, by where the address resolves. -/
theorem typedWrite : Obligations.TypedWrite := fun _ _ n v hwf =>
  ⟨fun h => memWrite_unmapped h n v, fun _ h hp => memWrite_discarded h hp n v,
    fun off h => ⟨fun hb => memWrite_ram_outside h hb v,
      fun hb => ⟨_, memWrite_ram_inside h hb v, storeEffect_write hwf off (widthBytes n) v⟩⟩⟩

/-- Settles O38: each store ends where its windows end, and a stub has no bounds check. -/
theorem regionEdges : Obligations.RegionEdges := by
  intro s win k n v hmap hw hk hend
  have hres := resolve_window hw hk
  rw [← hmap] at hres
  obtain ⟨hram, hbios⟩ := defaultMemoryMap_size win hw
  refine ⟨fun hseg => ?_, fun hseg => ?_, fun hseg => ?_, fun hseg => ⟨?_, ?_⟩⟩
  · rcases hseg with hseg | hseg
    · rw [hram hseg] at hend
      rw [hseg] at hres
      exact memRead_ram_outside hres hend
    · rw [hbios hseg] at hend
      rw [hseg] at hres
      exact memRead_bios_outside hres hend
  · rw [hram hseg] at hend
    rw [hseg] at hres
    exact memWrite_ram_outside hres hend v
  · exact memWrite_discarded hres (by simp [hseg]) n v
  · exact memRead_stub hres hseg n
  · exact memWrite_discarded hres (by rcases hseg with h | h <;> simp [h]) n v

/-! ### Faults -/

/-- A step whose fetch raises (R302). -/
theorem step_of_fetch_error {s : State} {c : Condition} (hr : s.halt = .running) (hf : s.fetch = .error c) :
    step s = .next (s.raiseFetch c) := by
  simp [step, hr, hf]

/-- Settles O35: the address resolves to none, and the fetch is a read. -/
theorem unmappedAccessRaises : Obligations.UnmappedAccessRaises := by
  intro s a ha
  have hres := resolve_eq_none_iff.mpr ha
  refine ⟨memRead_unmapped hres, memWrite_unmapped hres, fun hr hpc => ?_⟩
  subst hpc
  exact step_of_fetch_error hr (memRead_unmapped hres .word)

/-- Settles O12, by the conditions of the three ways a step can fault: at the fetch, at the decoder, in a meaning. -/
theorem illegalWriteIsNeverRaised : Obligations.IllegalWriteIsNeverRaised := by
  intro s t r hs ht hill
  obtain ⟨hr, hc⟩ := step_cases hs
  cases hc with
  | fetchRaised c hf =>
    cases ht
    rcases memRead_error hf with rfl | ⟨_, rfl⟩ <;> cases hill
  | noInstruction w e hf hd => cases ht; cases hill
  | executed w i u hf hd he hc =>
    rw [finish_halt] at ht
    rcases execCase_halt hc hr with ⟨hrun, -⟩ | ⟨c, rfl, hcond⟩ | ⟨rfl, -⟩ | ⟨_, -, rfl, -⟩
    · rw [hrun] at ht; cases ht
    · cases ht
      rcases hcond with rfl | ⟨_, _, rfl⟩ | ⟨_, rfl⟩ | ⟨_, _, _, rfl⟩ <;> cases hill
    · cases ht; cases hill
    · cases ht

/-! ### Reading back what was written -/

/-- Bytes `j` to `j + n` of a stored word are that part of its value (R63, R64). -/
theorem readBytes_writeBytes_part {m : Memory} (h : Memory.wf m = true) (off : Nat) (v : Word) {j n : Nat} (hn : j + n ≤ 4) :
    readBytes (writeBytes m off 4 v) (off + j) n = ((v >>> (8 * j)).setWidth (8 * n)).setWidth 32 := by
  induction n generalizing j with
  | zero => simp [readBytes, BitVec.of_length_zero]
  | succ n ih =>
    rw [readBytes, Nat.add_assoc, ih (j := j + 1) (by omega), read_writeBytes h, if_pos (by omega), Nat.add_sub_cancel_left]
    apply BitVec.eq_of_getLsbD_eq
    intro i hi
    by_cases h8 : i < 8
    · simp [h8, hi, show i < 8 * (n + 1) by omega]
    · have hpart : i - 8 < 8 * n ↔ i < 8 * (n + 1) := by omega
      have hbit : 8 * (j + 1) + (i - 8) = 8 * j + i := by omega
      simp [h8, hi, hpart, hbit, show i - 8 < 32 by omega]

/-- What a read of RAM answers after a word was written there: that part of the word (R57, R58, R64). -/
theorem memRead_part_of_word {s t : State} (hwf : Memory.wf s.ram = true) {off : Nat} (hb : off + 4 ≤ ramSize) {v : Word}
    (hram : t.ram = writeBytes s.ram off 4 v) {b : Word} {j : Nat} {n : Width} (hn : j + widthBytes n ≤ 4)
    (hres : resolve t.config.memoryMap b = some ⟨.ram, off + j⟩) :
    t.memRead b n = .ok (((v >>> (8 * j)).setWidth (8 * widthBytes n)).setWidth 32) := by
  rw [memRead_ram_inside hres (by omega), hram, readBytes_writeBytes_part hwf off v hn]

/-- A read of the whole word answers it (R57, R58). -/
theorem memRead_word_of_word {s t : State} (hwf : Memory.wf s.ram = true) {off : Nat} (hb : off + 4 ≤ ramSize) {v : Word}
    (hram : t.ram = writeBytes s.ram off 4 v) {b : Word} (hres : resolve t.config.memoryMap b = some ⟨.ram, off⟩) :
    t.memRead b .word = .ok v := by
  rw [memRead_ram_inside (n := .word) hres hb, hram]
  exact congrArg Except.ok (readBytes_writeBytes hwf off v)

/-- Settles O32: both addresses resolve to one place, and what is written there is read there. -/
theorem mirrorsShareTheirStore : Obligations.MirrorsShareTheirStore := by
  intro s win other k v hmap hw ho hseg hk
  have hres := resolve_window hw hk
  have hresOther := resolve_window ho (hk.trans_eq (defaultMemoryMap_size_eq win hw other ho hseg))
  rw [← hseg] at hresOther
  refine ⟨hres, hresOther, ?_, ?_⟩
  all_goals rw [← hmap] at hres hresOther
  · exact fun n m => memRead_of_same_place (hresOther.trans hres.symm)
  · intro hram hb hwf
    rw [hram] at hres hresOther
    exact ⟨_, memWrite_ram_inside (n := .word) hres hb v, memRead_word_of_word hwf hb rfl hresOther⟩

/-- Settles O37: each read answers its part of the word. -/
theorem mixedWidthView : Obligations.MixedWidthView := by
  intro s a off hwf hb h0 h1 h2
  have hpart {b : Word} {j : Nat} {n : Width} := memRead_part_of_word (b := b) (j := j) (n := n) hwf hb
    (show ({ s with ram := writeBytes s.ram off 4 0x44332211#32 } : State).ram = _ from rfl)
  exact ⟨_, memWrite_ram_inside (n := .word) h0 hb _, hpart (j := 0) (n := .byte) (by decide) h0,
    hpart (n := .byte) (by decide) h1, hpart (n := .half) (by decide) h2, hpart (n := .half) (by decide) h1⟩

/-! ### What a step does to RAM -/

/-- An instruction leaves RAM alone, unless it is a store and isolation is off (R68, R207). -/
theorem execCase_ram {i : Instr} {s t : State} (h : ExecCase i s t) :
    t.ram = s.ram ∨ s.isolated = false ∧ ∃ rt rs imm, i = .sb rt rs imm ∨ i = .sh rt rs imm ∨ i = .sw rt rs imm := by
  cases h with
  | stored rt rs imm off n v hi hs hb => exact .inr ⟨hs, rt, rs, imm, hi⟩
  | unlisted n hn => rw [unlisted_eq]; exact .inl rfl
  | _ => exact .inl rfl

/-- A step leaves RAM alone, unless it executes a store and isolation is off (R68, R207). -/
theorem step_ram {s t : State} (h : step s = .next t) :
    t.ram = s.ram ∨ s.isolated = false ∧
      ∃ i rt rs imm, s.Runs i ∧ (i = .sb rt rs imm ∨ i = .sh rt rs imm ∨ i = .sw rt rs imm) := by
  by_cases ht : t.halt = .running
  · obtain ⟨i, u, hi, hc, -, rfl⟩ := step_completed ⟨h, ht⟩
    rcases execCase_ram hc with hram | ⟨hiso, rt, rs, imm, hstore⟩
    · exact .inl hram
    · exact .inr ⟨hiso, i, rt, rs, imm, hi, hstore⟩
  · rcases step_ended h ht with ⟨e, -⟩ | ⟨e, -⟩
    · rw [e]; exact .inl rfl
    · rw [e]; exact .inl rfl

/-- Settles O24: a step that changes RAM executes a store, with isolation off. -/
theorem onlyUnisolatedStoresChangeRam : Obligations.OnlyUnisolatedStoresChangeRam := by
  intro s t h
  rcases step_ram h with hram | ⟨hiso, i, rt, rs, imm, hi, hstore⟩
  · exact ⟨fun _ _ _ => hram, fun _ => hram⟩
  · refine ⟨fun j hj hnot => ?_, fun hset => absurd (hset.symm.trans hiso) nofun⟩
    obtain rfl := runs_unique hj hi
    obtain ⟨hsb, hsh, hsw⟩ := hnot rt rs imm
    rcases hstore with hi | hi | hi
    · exact absurd hi hsb
    · exact absurd hi hsh
    · exact absurd hi hsw

/-- SW is a store of the whole register (R210). -/
theorem exec_sw (s : State) (rt rs : RegIndex) (imm : BitVec 16) :
    exec (.sw rt rs imm) s =
      storeTo s (encode (.sw rt rs imm)) (effectiveAddress s rs imm) .word (s.getReg rt) := rfl

/-- SW to RAM, with isolation off, that does not end the run wrote the word inside the bounds (R59, R206, R210). -/
theorem exec_sw_running {s u : State} {rt rs : RegIndex} {imm : BitVec 16} {off : Nat} (he : exec (.sw rt rs imm) s = .next u)
    (hu : u.halt = .running) (hiso : s.isolated = false)
    (hres : resolve s.config.memoryMap (effectiveAddress s rs imm) = some ⟨.ram, off⟩) :
    off + 4 ≤ ramSize ∧ u.ram = writeBytes s.ram off 4 (s.getReg rt) := by
  rw [exec_sw] at he
  by_cases hb : off + widthBytes .word ≤ ramSize
  · rw [storeTo_of_ok hiso (memWrite_ram_inside hres hb _)] at he
    cases he
    exact ⟨hb, rfl⟩
  · rw [storeTo_of_error hiso (memWrite_ram_outside hres (Nat.lt_of_not_le hb) _)] at he
    cases he
    cases hu

/-- Settles O36: the completed step wrote the word, and the fetch reads it back. -/
theorem storesAreSeenByTheNextFetch : Obligations.StoresAreSeenByTheNextFetch := by
  intro s t rt rs imm off hi h hwf hiso hres hpc
  obtain ⟨hs, ht⟩ := h
  obtain ⟨u, he, -, rfl⟩ := runs_step hi hs
  rw [finish_halt] at ht
  rw [finish_of_running ht] at hpc ⊢
  obtain ⟨hb, hram⟩ := exec_sw_running he ht hiso hres
  exact memRead_word_of_word hwf hb hram hpc

end Machine
end Sys2Proof
end

section
/-! The statements of 30_encoding.md: the decoder and the encoder are inverse to each other (R91 to R98), a row's fixed bits are all
that the decoder looks at (R99, R101), and what a step does on an Unlisted word and on an Empty entry (R100, R101, R104). -/

namespace Sys2Proof

/-! ### The decoder, read forwards -/

/-- The SPECIAL opcode hands the word to the SPECIAL table (R95). -/
theorem decode_of_special {w : Word} (h : opField w = 0x00#6) : decode w = decodeSpecial w := by
  simp [decode, h]

/-- The REGIMM opcode hands the word to the branch-condition table (R95). -/
theorem decode_of_regimm {w : Word} (h : opField w = 0x01#6) : decode w = decodeRegimm w := by
  simp [decode, h]

/-- The COP0 opcode hands the word to the COP0 table (R95). -/
theorem decode_of_cop0 {w : Word} (h : opField w = 0x10#6) : decode w = decodeCop0 w := by
  simp [decode, h]

/-- The COP0 table answers the whole upper half of its keys alike (R98). -/
theorem decodeCop0_of_ge {w : Word} (h : 0x10#5 ≤ rsField w) : decodeCop0 w = .ok (.cop0Operation (coBits w)) := by
  unfold decodeCop0
  split
  case h_6 => exact if_pos h
  all_goals
    next hkey =>
    rw [hkey] at h
    exact absurd h (by decide)

/-- The word of an instruction leads the decoder to the instruction's own row, and the row's fields are the operands. -/
theorem decode_encode (i : Instr) : decode (encode i) = .ok i := by
  cases i
  case add | addu | and | or | xor | sll | srl | sra | sllv | srlv | srav | jr | jalr =>
    rw [encode, decode_of_special (opField_rType ..)]
    simp [decodeSpecial]
  case syscall | brk | mfhi | mthi | mflo | mtlo | mult | multu | div | divu | sub | subu | nor | slt | sltu =>
    rw [encode, decode_of_special (opField_spType ..)]
    simp [decodeSpecial]
  case bltz | bgez | bltzal | bgezal =>
    rw [encode, decode_of_regimm (opField_iType ..)]
    simp [decodeRegimm]
  case mfc0 | mtc0 =>
    rw [encode, decode_of_cop0 (opField_copType ..)]
    simp [decodeCop0]
  case cfc0 | ctc0 | bc0 =>
    rw [encode, decode_of_cop0 (opField_cop0Type ..)]
    simp [decodeCop0]
  case cop0Operation bits =>
    rw [encode, decode_of_cop0 (opField_coType ..), decodeCop0_of_ge (rsField_coType_ge bits), coBits_coType]
  all_goals simp [encode, decode]

/-- Settles O1, by the table each instruction's row stands in. -/
theorem encodeThenDecode : Obligations.EncodeThenDecode := decode_encode

/-- Settles O2: the decoder read backwards, table by table. -/
theorem decodeThenEncode : Obligations.DecodeThenEncode := fun _ _ h => encode_of_decode h

/-! ### Words and rows -/

/-- A word with a primary row's fixed bits has its opcode (R95). -/
theorem opField_of_masked {w m : Word} (h : w &&& 0xFC000000#32 = m) : opField w = m.extractLsb' 26 6 := by
  rw [← h]
  exact (opField_masked w).symm

/-- A word with a SPECIAL row's fixed bits has its two keys (R96). -/
theorem specialKey_of_masked {w m : Word} (h : w &&& 0xFC00003F#32 = m) :
    opField w = m.extractLsb' 26 6 ∧ functField w = m.extractLsb' 0 6 := by
  obtain ⟨hop, hfunct⟩ := specialKey_masked w
  rw [← h]
  exact ⟨hop.symm, hfunct.symm⟩

/-- A word with a REGIMM row's fixed bits has its two keys (R97). -/
theorem regimmKey_of_masked {w m : Word} (h : w &&& 0xFC1F0000#32 = m) :
    opField w = m.extractLsb' 26 6 ∧ rtField w = m.extractLsb' 16 5 := by
  obtain ⟨hop, hrt⟩ := regimmKey_masked w
  rw [← h]
  exact ⟨hop.symm, hrt.symm⟩

/-- A word with a COP0 row's fixed bits has its two keys (R98). -/
theorem cop0Key_of_masked {w m : Word} (h : w &&& 0xFFE00000#32 = m) :
    opField w = m.extractLsb' 26 6 ∧ rsField w = m.extractLsb' 21 5 := by
  obtain ⟨hop, hrs⟩ := cop0Key_masked w
  rw [← h]
  exact ⟨hop.symm, hrs.symm⟩

/-- Settles O3: the fixed bits are the keys of the tables, and the keys lead the decoder to the row. -/
theorem rowWordsDecodeToTheirRow : Obligations.RowWordsDecodeToTheirRow := by
  intro w i h
  cases i
  all_goals simp only [Instr.rowMask, Instr.rowMatch] at h
  case add | addu | and | or | xor | sll | srl | sra | sllv | srlv | srav | jr | jalr | syscall | brk | mfhi | mthi | mflo | mtlo |
      mult | multu | div | divu | sub | subu | nor | slt | sltu =>
    obtain ⟨hop, hfunct⟩ := specialKey_of_masked h
    rw [decode_of_special (hop.trans rfl), decodeSpecial, hfunct]
    exact ⟨_, rfl, rfl, rfl⟩
  case bltz | bgez | bltzal | bgezal =>
    obtain ⟨hop, hrt⟩ := regimmKey_of_masked h
    rw [decode_of_regimm (hop.trans rfl), decodeRegimm, hrt]
    exact ⟨_, rfl, rfl, rfl⟩
  case mfc0 | mtc0 | cfc0 | ctc0 | bc0 =>
    obtain ⟨hop, hrs⟩ := cop0Key_of_masked h
    rw [decode_of_cop0 (hop.trans rfl), decodeCop0, hrs]
    exact ⟨_, rfl, rfl, rfl⟩
  case cop0Operation =>
    obtain ⟨hop, hge⟩ := coKey_of_masked h
    exact ⟨_, (decode_of_cop0 hop).trans (decodeCop0_of_ge hge), rfl, rfl⟩
  all_goals
    rw [decode, opField_of_masked h]
    exact ⟨_, rfl, rfl, rfl⟩

namespace Laws.RowEncoding

/-- The laws of the 75 rows together. -/
theorem statement : ∀ i : Instr, Statement i
  | .add .. => add .. | .addu .. => addu .. | .addi .. => addi .. | .addiu .. => addiu ..
  | .and .. => and .. | .or .. => or .. | .xor .. => xor .. | .andi .. => andi .. | .ori .. => ori ..
  | .sll .. => sll .. | .srl .. => srl .. | .sra .. => sra .. | .sllv .. => sllv .. | .srlv .. => srlv .. | .srav .. => srav ..
  | .lui .. => lui .. | .lb .. => lb .. | .lbu .. => lbu .. | .lhu .. => lhu .. | .lw .. => lw ..
  | .sb .. => sb .. | .sh .. => sh .. | .sw .. => sw ..
  | .j .. => j .. | .jal .. => jal .. | .jr .. => jr .. | .jalr .. => jalr ..
  | .beq .. => beq .. | .bne .. => bne .. | .blez .. => blez .. | .bgtz .. => bgtz ..
  | .bltz .. => bltz .. | .bgez .. => bgez .. | .bltzal .. => bltzal .. | .bgezal .. => bgezal ..
  | .mfc0 .. => mfc0 .. | .mtc0 .. => mtc0 ..
  | .slti .. => slti .. | .sltiu .. => sltiu .. | .xori .. => xori ..
  | .cop1 .. => cop1 .. | .cop2 .. => cop2 .. | .cop3 .. => cop3 ..
  | .lh .. => lh .. | .lwl .. => lwl .. | .lwr .. => lwr .. | .swl .. => swl .. | .swr .. => swr ..
  | .lwc0 .. => lwc0 .. | .lwc1 .. => lwc1 .. | .lwc2 .. => lwc2 .. | .lwc3 .. => lwc3 ..
  | .swc0 .. => swc0 .. | .swc1 .. => swc1 .. | .swc2 .. => swc2 .. | .swc3 .. => swc3 ..
  | .syscall .. => syscall .. | .brk .. => brk ..
  | .mfhi .. => mfhi .. | .mthi .. => mthi .. | .mflo .. => mflo .. | .mtlo .. => mtlo ..
  | .mult .. => mult .. | .multu .. => multu .. | .div .. => div .. | .divu .. => divu ..
  | .sub .. => sub .. | .subu .. => subu .. | .nor .. => nor .. | .slt .. => slt .. | .sltu .. => sltu ..
  | .cfc0 .. => cfc0 .. | .ctc0 .. => ctc0 .. | .bc0 .. => bc0 .. | .cop0Operation .. => cop0Operation ..

end Laws.RowEncoding

/-- A decoded word carries the fixed bits of its instruction's row (R94). -/
theorem masked_of_decode {w : Word} {i : Instr} (h : decode w = .ok i) : w &&& i.rowMask = i.rowMatch := by
  obtain rfl := encode_of_decode h
  exact Laws.RowEncoding.statement i

/-- Settles O4: a word with a row's fixed bits decodes, and a decoded word carries the fixed bits of its row. -/
theorem onlyRowWordsDecode : Obligations.OnlyRowWordsDecode := by
  refine fun w => ⟨fun ⟨e, he⟩ i hi => ?_, fun hnone => ?_⟩
  · obtain ⟨j, hj, -⟩ := rowWordsDecodeToTheirRow w i hi
    cases he.symm.trans hj
  · cases hd : decode w with
    | error e => exact ⟨e, rfl⟩
    | ok i => exact absurd (masked_of_decode hd) (hnone i)

namespace Machine

/-! ### Unlisted words and Empty entries -/

/-- An Unlisted word under the refusing policy (R104). -/
theorem unlisted_of_refuse {s : State} (h : s.config.unlistedPolicy = .refuse) (w : Word) (n : UnlistedName) :
    s.unlisted w n = s.refuse w n := by
  rw [State.unlisted, h]

/-- An Unlisted word under the other policy (R100). -/
theorem unlisted_of_notImplemented {s : State} (h : s.config.unlistedPolicy = .notImplemented) (w : Word)
    (n : UnlistedName) : s.unlisted w n = s.raiseDecode w := by
  rw [State.unlisted, h]

/-- The meaning of an Unlisted instruction is the policy's answer: every other case of `exec` is of a named one (R100). -/
theorem exec_of_unlistedName {i : Instr} {n : UnlistedName} (h : i.unlistedName = some n) (s : State) :
    exec i s = .next (s.unlisted (encode i) n) := by
  obtain ⟨t, he, hc⟩ := exec_cases i s
  rw [he]
  cases hc with
  | applied _ _ _ _ _ _ hu => cases hu.symm.trans h
  | raised _ _ hu => cases hu.symm.trans h
  | unlisted m hm => cases hm.symm.trans h; rfl
  | control _ _ _ hi => subst hi; cases h
  | stored _ _ _ _ _ _ hi => rcases hi with rfl | rfl | rfl <;> cases h

/-- Settles O59, by the two policies. -/
theorem unlistedInstructionsHalt : Obligations.UnlistedInstructionsHalt := by
  refine fun s i n hn => ⟨fun hp => ?_, fun hp => ?_⟩
  · rw [exec_of_unlistedName hn, unlisted_of_refuse hp]; rfl
  · rw [exec_of_unlistedName hn, unlisted_of_notImplemented hp]; rfl

/-- A refusal during the step fetched at `s.pc` writes the pc and `halt`, and records that address (R25, R104). -/
theorem refuse_advancePc (s : State) (w : Word) (n : UnlistedName) :
    s.advancePc.refuse w n = { s with pc := s.pc + 4#32, halt := .refused ⟨s.pc, w, n⟩ } := by
  rw [State.refuse, fetchAddress_advancePc]
  rfl

/-- The OpcodeNotImplemented of the step fetched at `s.pc` writes the pc and `halt`, and records that address (R25, R101). -/
theorem raiseDecode_advancePc (s : State) (w : Word) :
    s.advancePc.raiseDecode w =
      { s with pc := s.pc + 4#32, halt := .faulted ⟨.opcodeNotImplemented, .decode, s.pc, some w⟩ } := by
  rw [State.raiseDecode, fetchAddress_advancePc]
  rfl

/-- Settles O14: the instruction of the word is refused, and a refused state takes no step. -/
theorem unlistedWordsAreRefused : Obligations.UnlistedWordsAreRefused := by
  intro s w i n hr hf hd hn hp
  refine ⟨?_, rfl⟩
  have he : exec i s.advancePc = .next (s.advancePc.refuse w n) := by
    rw [exec_of_unlistedName hn, unlisted_of_refuse (s := s.advancePc) hp, encode_of_decode hd]
  rw [step_of_decoded hr hf hd he, refuse_advancePc]
  rfl

/-- Settles O13: of the ways a step can answer, only the meaning of an Unlisted instruction refuses. -/
theorem refusalsAreUnlistedWords : Obligations.RefusalsAreUnlistedWords := by
  intro s t r hs ht
  obtain ⟨hr, hc⟩ := step_cases hs
  cases hc with
  | fetchRaised c hf => cases ht
  | noInstruction w e hf hd => cases ht
  | executed w i u hf hd he hc =>
    rw [finish_halt] at ht
    rcases execCase_halt hc hr with ⟨hrun, -⟩ | ⟨c, rfl, -⟩ | ⟨rfl, -⟩ | ⟨n, hn, rfl, hp⟩
    · rw [hrun] at ht; cases ht
    · cases ht
    · cases ht
    · rw [encode_of_decode hd, refuse_advancePc] at ht ⊢
      cases ht
      exact ⟨hp, hf, rfl, ⟨i, hd, hn⟩, rfl⟩

/-- Settles O15: the decoder rejects the word after the fetch advanced the pc. -/
theorem emptyEntriesRaise : Obligations.EmptyEntriesRaise := by
  intro s w e hr hf hd
  rw [← raiseDecode_advancePc]
  simp [step, hr, hf, runWord, hd]

end Machine
end Sys2Proof
end

section
/-! The statements of 40_step_and_scheduler.md: the step runs the decoded instruction and commits (R120), CommitStep moves both delay
queues (R128 to R130), and a pending load lands one step later (R127, R131, R344). -/

namespace Sys2Proof
namespace Machine

/-! ### CommitStep -/

/-- What a register reads after CommitStep: the imminent load's value in its target, r0 excepted (R22, R129). -/
theorem getReg_commitStep_eq_ite (s : State) (q : RegIndex) :
    s.commitStep.getReg q =
      match s.lq0 with
      | some l => if q = l.reg ∧ q ≠ 0#5 then l.value else s.getReg q
      | none => s.getReg q := by
  rw [getReg_commitStep]
  cases s.lq0 with
  | none => rfl
  | some l =>
    by_cases hq : q = l.reg
    · subst hq
      by_cases h0 : l.reg = 0#5
      · simp [h0, State.getReg]
      · simp [h0]
    · simp [hq]

/-- Settles O7, by the register CommitStep writes; the other fields are the queue positions it moves or are left alone. -/
theorem commitStepMovesTheQueues : Obligations.CommitStepMovesTheQueues := fun s =>
  ⟨getReg_commitStep_eq_ite s, rfl, rfl, rfl, rfl, rfl, fun _ => rfl, fun _ => ⟨rfl, rfl⟩, rfl, rfl, rfl⟩

/-! ### The step -/

/-- The end of a step commits exactly when the instruction did not end the run (R13, R120). -/
theorem finish_eq_ite (s : State) : s.finish = if s.halt = .running then s.commitStep else s := by
  split
  · next h => exact finish_of_running h
  · next h => exact finish_of_not_running h

/-- Settles O8: a meaning always answers a state, and the step ends on it. -/
theorem stepRunsTheDecodedInstruction : Obligations.StepRunsTheDecodedInstruction := by
  intro s w i hr hf hd
  obtain ⟨u, he, -⟩ := exec_cases i s.advancePc
  rw [step_of_decoded hr hf hd he, finish_eq_ite, show exec i { s with pc := s.pc + 4#32 } = .next u from he]

/-! ### The pending load -/

/-- What the instruction of a completed step answers, which the step then commits (R120). -/
theorem completed_exec {s t : State} {i : Instr} (hi : s.Runs i) (h : StepCompletes s t) :
    ∃ u, exec i s.advancePc = .next u ∧ ExecCase i s.advancePc u ∧ u.halt = .running ∧ t = u.commitStep := by
  obtain ⟨hs, ht⟩ := h
  obtain ⟨u, he, hc, rfl⟩ := runs_step hi hs
  rw [finish_halt] at ht
  exact ⟨u, he, hc, ht, finish_of_running ht⟩

/-- An instruction keeps the imminent load to a register it does not write directly (R127). -/
theorem execCase_lq0_of_ne {i : Instr} {s u : State} {l : LoadSlot} (hc : ExecCase i s u) (hu : u.halt = .running)
    (hl : s.lq0 = some l) (hd : i.directDest ≠ some l.reg) : u.lq0 = some l := by
  obtain ⟨-, -, hlq0, -⟩ := execCase_running hc hu
  rw [hlq0, hl]
  split
  · next r hr => exact if_neg fun (e : l.reg = r) => hd (by rw [hr, e])
  · rfl

/-- An instruction cancels the imminent load to the register it writes directly (R127). -/
theorem execCase_lq0_of_eq {i : Instr} {s u : State} {l : LoadSlot} (hc : ExecCase i s u) (hu : u.halt = .running)
    (hl : s.lq0 = some l) (hd : i.directDest = some l.reg) : u.lq0 = none := by
  obtain ⟨-, -, hlq0, -⟩ := execCase_running hc hu
  rw [hlq0, hl, hd]
  exact if_pos rfl

/-- Settles O16, by whether the instruction keeps the pending load, which the commit then applies, or cancels it. -/
theorem loadsLandOneStepLater : Obligations.LoadsLandOneStepLater := by
  intro s t i l hi h hl
  obtain ⟨u, he, hc, hu, rfl⟩ := completed_exec hi h
  refine ⟨fun hd => ?_, fun hd => ⟨u, he, ?_⟩⟩
  · rw [getReg_commitStep, execCase_lq0_of_ne hc hu hl hd]
    exact if_pos rfl
  · have hcancelled : u.lq0 = none := execCase_lq0_of_eq hc hu hl hd
    exact getReg_commitStep_of_not_due fun v => by rw [hcancelled]; nofun

end Machine
end Sys2Proof
end

section
/-! The statements of 41_arithmetic.md: the signed overflow predicate (R151), and the four adds over the two shared answers of an
instruction that writes one register, the checked write and the unchecked one (R153 to R156). -/

namespace Sys2Proof
namespace Machine

/-! ### The signed overflow predicate -/

/-- The predicate is the library's signed addition overflow. -/
theorem signedOverflow_eq_saddOverflow (a b : Word) : signedOverflow a b = a.saddOverflow b := by
  have hupper : 2147483647 < a.toInt + b.toInt ↔ 2147483648 ≤ a.toInt + b.toInt := by omega
  simp [signedOverflow, BitVec.saddOverflow, hupper, Bool.or_comm]

/-- The predicate as a range of sums (R151). -/
theorem signedOverflow_iff {a b : Word} :
    signedOverflow a b = true ↔ a.toInt + b.toInt < -2 ^ 31 ∨ 2 ^ 31 - 1 < a.toInt + b.toInt := by
  simp [signedOverflow]

/-- A sum in the range does not overflow (R151). -/
theorem signedOverflow_of_fits {a b : Word} (hlo : -2 ^ 31 ≤ a.toInt + b.toInt) (hhi : a.toInt + b.toInt ≤ 2 ^ 31 - 1) :
    signedOverflow a b = false := by
  rw [Bool.eq_false_iff, Ne, signedOverflow_iff]
  omega

/-- The predicate on the sign bits: those of the operands agree, and that of the sum differs (R151). -/
theorem signedOverflow_iff_signBits {a b : Word} :
    signedOverflow a b = true ↔ a.getLsbD 31 = b.getLsbD 31 ∧ (a + b).getLsbD 31 ≠ a.getLsbD 31 := by
  rw [signedOverflow_eq_saddOverflow, BitVec.saddOverflow_eq]
  simp [BitVec.msb_eq_getLsbD_last]

/-- Settles O40: the range form, and the sign-bit form of the library. -/
theorem signedOverflowForms : Obligations.SignedOverflowForms := fun _ _ =>
  ⟨signedOverflow_iff, signedOverflow_iff_signBits⟩

/-! ### Sums as numbers -/

/-- Without overflow the word sum is the mathematical one (R150). -/
theorem toInt_add_of_not_signedOverflow {a b : Word} (h : signedOverflow a b = false) :
    (a + b).toInt = a.toInt + b.toInt :=
  BitVec.toInt_add_of_not_saddOverflow (by rw [← signedOverflow_eq_saddOverflow, h]; exact Bool.false_ne_true)

/-- The sign-extended immediate as a signed number (R91). -/
theorem simm_toInt (imm : BitVec 16) : (simm imm).toInt = imm.toInt := BitVec.toInt_signExtend_of_le (by decide)

/-- The sum with the sign-extended immediate as a number modulo 2^32 (R156). -/
theorem add_simm_toNat (a : Word) (imm : BitVec 16) :
    ((a + simm imm).toNat : Int) = (a.toNat + imm.toInt) % 4294967296 := by
  have hi := simm_toNat imm
  rw [BitVec.toNat_add]
  omega

/-! ### The four meanings -/

/-- ADD is a checked write of the sum (R153). -/
theorem exec_add (s : State) (rd rs rt sa : RegIndex) :
    exec (.add rd rs rt sa) s =
      writeChecked s (encode (.add rd rs rt sa)) (signedOverflow (s.getReg rs) (s.getReg rt)) rd
        (s.getReg rs + s.getReg rt) := rfl

/-- ADDI is a checked write of the sum with the immediate (R155). -/
theorem exec_addi (s : State) (rt rs : RegIndex) (imm : BitVec 16) :
    exec (.addi rt rs imm) s =
      writeChecked s (encode (.addi rt rs imm)) (signedOverflow (s.getReg rs) (simm imm)) rt
        (s.getReg rs + simm imm) := rfl

/-- ADDU is a write of the sum (R154). -/
theorem exec_addu (s : State) (rd rs rt sa : RegIndex) :
    exec (.addu rd rs rt sa) s = writeResult s rd (s.getReg rs + s.getReg rt) := rfl

/-- ADDIU is a write of the sum with the immediate (R156). -/
theorem exec_addiu (s : State) (rt rs : RegIndex) (imm : BitVec 16) :
    exec (.addiu rt rs imm) s = writeResult s rt (s.getReg rs + simm imm) := rfl

/-! ### The checked sum -/

/-- A checked sum in the range is written, as the mathematical one (R153, R155). -/
theorem writeChecked_sum_of_fits {a b : Word} (hlo : -2 ^ 31 ≤ a.toInt + b.toInt) (hhi : a.toInt + b.toInt ≤ 2 ^ 31 - 1)
    (s : State) (w : Word) (r : RegIndex) :
    ∃ t v, writeChecked s w (signedOverflow a b) r (a + b) = .next t ∧ v.toInt = a.toInt + b.toInt ∧
      Effect s t (some (r, v)) none none := by
  have hno : signedOverflow a b = false := signedOverflow_of_fits hlo hhi
  refine ⟨_, a + b, ?_, toInt_add_of_not_signedOverflow hno, effect_applied s (some (r, a + b)) none none⟩
  rw [writeChecked_eq, hno]
  rfl

/-- A checked sum outside the range raises, before any write (R123, R302). -/
theorem writeChecked_sum_of_overflow {a b : Word} (h : a.toInt + b.toInt < -2 ^ 31 ∨ 2 ^ 31 - 1 < a.toInt + b.toInt)
    (s : State) (w : Word) (r : RegIndex) :
    writeChecked s w (signedOverflow a b) r (a + b) =
      .next { s with halt := .faulted ⟨.arithmeticOverflow, .execute, s.pc - 4#32, some w⟩ } := by
  rw [writeChecked_eq, signedOverflow_iff.mpr h]
  rfl

/-- Settles O41: both are a checked sum, ADDI's with the immediate's own signed value. -/
theorem signedAdds : Obligations.SignedAdds := by
  intro s rd rs rt sa imm
  rw [exec_add, exec_addi, ← simm_toInt]
  exact ⟨fun hlo hhi => writeChecked_sum_of_fits hlo hhi s _ rd, fun hlo hhi => writeChecked_sum_of_fits hlo hhi s _ rt,
    fun h => writeChecked_sum_of_overflow h s _ rd, fun h => writeChecked_sum_of_overflow h s _ rt⟩

/-! ### The unchecked sum -/

/-- Settles O42: both write their sum, whatever it is. -/
theorem unsignedAdds : Obligations.UnsignedAdds := by
  intro s rd rs rt sa imm
  rw [exec_addu, exec_addiu]
  exact ⟨⟨_, _, writeResult_eq s rd _, BitVec.toNat_add .., effect_applied s _ none none⟩,
    ⟨_, _, writeResult_eq s rt _, add_simm_toNat .., effect_applied s _ none none⟩⟩

end Machine
end Sys2Proof
end

section
/-! The statements of 42_logical_shift.md: each instruction writes one computed value (R170 to R181), so each statement is the
value it writes, read bit by bit or as a number, beside the shared effect of a direct write. -/

namespace Sys2Proof
namespace Machine

/-! ### Operands and shifts as bits and numbers -/

/-- The zero-extended immediate: its own bits below bit 16, zeros above (R91). -/
theorem zimm_getLsbD (imm : BitVec 16) (k : Nat) : (zimm imm).getLsbD k = (decide (k < 16) && imm.getLsbD k) := by
  rw [zimm, BitVec.getLsbD_setWidth]
  by_cases hk : k < 16
  · have hk32 : k < 32 := by omega
    simp [hk, hk32]
  · simp [hk, BitVec.getLsbD_of_ge imm k (by omega)]

/-- The immediate in the upper half as a number (R93). -/
theorem upperImm_toNat (imm : BitVec 16) : (upperImm imm).toNat = imm.toNat * 65536 :=
  (toNat_append_sum imm 0#16).trans (by simp)

/-- The low five bits of the register are its value modulo 32 (R178 to R180). -/
theorem shiftAmount_eq_mod (a : Word) : shiftAmount a = a.toNat % 32 := by
  rw [shiftAmount, BitVec.extractLsb'_toNat, Nat.shiftRight_zero]

/-- A left shift multiplies by the power of two, modulo 2^32 (R175). -/
theorem shiftLeft_toNat (a : Word) (k : Nat) : (a <<< k).toNat = a.toNat * 2 ^ k % 4294967296 := by
  rw [BitVec.toNat_shiftLeft, Nat.shiftLeft_eq]

/-- A logical right shift divides the unsigned value (R176). -/
theorem ushiftRight_toNat (a : Word) (k : Nat) : (a >>> k).toNat = a.toNat / 2 ^ k := by
  rw [BitVec.toNat_ushiftRight, Nat.shiftRight_eq_div_pow]

/-- An arithmetic right shift is floor division of the signed value (R177). -/
theorem sshiftRight_toInt (a : Word) (k : Nat) : (a.sshiftRight k).toInt = a.toInt / 2 ^ k := by
  rw [BitVec.toInt_sshiftRight, Int.shiftRight_eq_div_pow]
  push_cast
  rfl

/-! ### The twelve meanings -/

section
variable (s : State) (rd rs rt sa : RegIndex) (imm : BitVec 16)

/-- AND writes the conjunction (R170). -/
theorem exec_and : exec (.and rd rs rt sa) s = writeResult s rd (s.getReg rs &&& s.getReg rt) := rfl

/-- OR writes the disjunction (R171). -/
theorem exec_or : exec (.or rd rs rt sa) s = writeResult s rd (s.getReg rs ||| s.getReg rt) := rfl

/-- XOR writes the exclusive disjunction (R172). -/
theorem exec_xor : exec (.xor rd rs rt sa) s = writeResult s rd (s.getReg rs ^^^ s.getReg rt) := rfl

/-- ANDI writes the conjunction with the zero-extended immediate (R173). -/
theorem exec_andi : exec (.andi rt rs imm) s = writeResult s rt (s.getReg rs &&& zimm imm) := rfl

/-- ORI writes the disjunction with the zero-extended immediate (R174). -/
theorem exec_ori : exec (.ori rt rs imm) s = writeResult s rt (s.getReg rs ||| zimm imm) := rfl

/-- SLL writes the register shifted left by its own field (R175). -/
theorem exec_sll : exec (.sll rd rt sa rs) s = writeResult s rd (s.getReg rt <<< sa.toNat) := rfl

/-- SRL writes the register shifted right by its own field, zeros shifted in (R176). -/
theorem exec_srl : exec (.srl rd rt sa rs) s = writeResult s rd (s.getReg rt >>> sa.toNat) := rfl

/-- SRA writes the register shifted right by its own field, the sign shifted in (R177). -/
theorem exec_sra : exec (.sra rd rt sa rs) s = writeResult s rd ((s.getReg rt).sshiftRight sa.toNat) := rfl

/-- SLLV is SLL by the amount in `rs` (R178). -/
theorem exec_sllv : exec (.sllv rd rt rs sa) s = writeResult s rd (s.getReg rt <<< ((s.getReg rs).toNat % 32)) := by
  rw [← shiftAmount_eq_mod]
  rfl

/-- SRLV is SRL by the amount in `rs` (R179). -/
theorem exec_srlv : exec (.srlv rd rt rs sa) s = writeResult s rd (s.getReg rt >>> ((s.getReg rs).toNat % 32)) := by
  rw [← shiftAmount_eq_mod]
  rfl

/-- SRAV is SRA by the amount in `rs` (R180). -/
theorem exec_srav :
    exec (.srav rd rt rs sa) s = writeResult s rd ((s.getReg rt).sshiftRight ((s.getReg rs).toNat % 32)) := by
  rw [← shiftAmount_eq_mod]
  rfl

/-- LUI writes the immediate in the upper half (R181). -/
theorem exec_lui : exec (.lui rt imm rs) s = writeResult s rt (upperImm imm) := rfl

end

/-! ### The statements -/

/-- A meaning that writes one value has that value's property, and the frame of a direct write (R124). -/
theorem exec_effect_of_writeResult {i : Instr} {s : State} {r : RegIndex} {v : Word} {P : Word → Prop}
    (he : exec i s = writeResult s r v) (hv : P v) :
    ∃ t v, exec i s = .next t ∧ P v ∧ Effect s t (some (r, v)) none none :=
  ⟨_, v, he.trans (writeResult_eq s r v), hv, effect_applied s (some (r, v)) none none⟩

/-- Settles O43: each writes its bitwise operation, which the library reads bit by bit. -/
theorem registerLogical : Obligations.RegisterLogical := fun _ _ _ _ _ =>
  ⟨exec_effect_of_writeResult (exec_and ..) fun _ => BitVec.getLsbD_and,
    exec_effect_of_writeResult (exec_or ..) fun _ => BitVec.getLsbD_or,
    exec_effect_of_writeResult (exec_xor ..) fun _ => BitVec.getLsbD_xor⟩

/-- Settles O44: the same, with the bits of the zero-extended immediate. -/
theorem immediateLogical : Obligations.ImmediateLogical := by
  intro s rt rs imm
  refine ⟨exec_effect_of_writeResult (exec_andi ..) fun k => ?_, exec_effect_of_writeResult (exec_ori ..) fun k => ?_⟩
  · rw [BitVec.getLsbD_and, zimm_getLsbD, Bool.and_left_comm, Bool.and_assoc]
  · rw [BitVec.getLsbD_or, zimm_getLsbD]

/-- Settles O45: the three shifts as arithmetic, by the instruction's own field. -/
theorem immediateShifts : Obligations.ImmediateShifts := fun _ _ _ _ _ =>
  ⟨exec_effect_of_writeResult (exec_sll ..) (shiftLeft_toNat ..),
    exec_effect_of_writeResult (exec_srl ..) (ushiftRight_toNat ..),
    exec_effect_of_writeResult (exec_sra ..) (sshiftRight_toInt ..)⟩

/-- Settles O46: the same arithmetic, by the register modulo 32. -/
theorem variableShifts : Obligations.VariableShifts := fun _ _ _ _ _ =>
  ⟨exec_effect_of_writeResult (exec_sllv ..) (shiftLeft_toNat ..),
    exec_effect_of_writeResult (exec_srlv ..) (ushiftRight_toNat ..),
    exec_effect_of_writeResult (exec_srav ..) (sshiftRight_toInt ..)⟩

/-- Settles O47: the value written is the immediate times 65536. -/
theorem loadUpperImmediate : Obligations.LoadUpperImmediate := fun _ _ _ _ =>
  exec_effect_of_writeResult (exec_lui ..) (upperImm_toNat _)

end Machine
end Sys2Proof
end

section
/-! The statements of 43_load_store.md: addresses and targets as numbers (R200, R230 to R232), the four loads over the shared load
(R201 to R205), and the three stores over the shared store (R206 to R210). -/

namespace Sys2Proof
namespace Machine

/-! ### Addresses and targets as numbers -/

/-- A branch target as a number: the immediate counts words from the delay slot (R230). -/
theorem branchTarget_toNat (s : State) (imm : BitVec 16) :
    ((branchTarget s imm).toNat : Int) = (s.pc.toNat + 4 * imm.toInt) % 4294967296 := by
  have hi := simm_toNat imm
  rw [branchTarget, delaySlotAddress_eq, BitVec.toNat_add, shiftLeft_toNat]
  omega

/-- A jump target is the top four bits of the delay slot's address, then the field, then two zero bits (R231). -/
theorem jumpTarget_eq_append (s : State) (target : BitVec 26) :
    jumpTarget s target = s.pc.extractLsb' 28 4 ++ (target ++ 0#2) := by
  rw [jumpTarget, delaySlotAddress_eq]
  apply BitVec.eq_of_getLsbD_eq
  intro i hi
  rw [BitVec.getLsbD_append (m := 28), BitVec.getLsbD_append]
  interval_cases i <;> simp

/-- A jump target as a number (R231). -/
theorem jumpTarget_toNat (s : State) (target : BitVec 26) :
    (jumpTarget s target).toNat = s.pc.toNat / 268435456 * 268435456 + 4 * target.toNat := by
  have hpc := s.pc.isLt
  rw [jumpTarget_eq_append, toNat_append_sum, toNat_append_sum, BitVec.extractLsb'_toNat, Nat.shiftRight_eq_div_pow]
  simp only [BitVec.toNat_ofNat]
  omega

/-- Settles O39, by the number each address is. -/
theorem addressesAndTargets : Obligations.AddressesAndTargets := by
  intro s rs imm target
  refine ⟨add_simm_toNat (s.getReg rs) imm, branchTarget_toNat s imm, jumpTarget_toNat s target, ?_⟩
  rw [linkValue_eq]
  exact BitVec.toNat_add ..

/-! ### The values loads deliver -/

/-- LB delivers the byte as a signed number (R202). -/
theorem extendSignedByte_toInt (m : Word) : (extendSignedByte m).toInt = (m.setWidth 8).toInt :=
  BitVec.toInt_signExtend_of_le (by decide)

/-- LBU delivers the low byte (R203). -/
theorem extendByte_toNat (m : Word) : (extendByte m).toNat = m.toNat % 256 := by
  rw [extendByte, BitVec.toNat_setWidth_of_le (by decide), BitVec.toNat_setWidth]

/-- LHU delivers the low half (R204). -/
theorem extendHalf_toNat (m : Word) : (extendHalf m).toNat = m.toNat % 65536 := by
  rw [extendHalf, BitVec.toNat_setWidth_of_le (by decide), BitVec.toNat_setWidth]

/-! ### The meanings; SW's is `exec_sw` -/

section
variable (s : State) (rt rs : RegIndex) (imm : BitVec 16)

/-- LB is a load of a byte, its sign extended (R202). -/
theorem exec_lb :
    exec (.lb rt rs imm) s =
      loadFrom s (encode (.lb rt rs imm)) rt (effectiveAddress s rs imm) .byte extendSignedByte := rfl

/-- LBU is a load of a byte, zeros above it (R203). -/
theorem exec_lbu :
    exec (.lbu rt rs imm) s = loadFrom s (encode (.lbu rt rs imm)) rt (effectiveAddress s rs imm) .byte extendByte := rfl

/-- LHU is a load of a half, zeros above it (R204). -/
theorem exec_lhu :
    exec (.lhu rt rs imm) s = loadFrom s (encode (.lhu rt rs imm)) rt (effectiveAddress s rs imm) .half extendHalf := rfl

/-- LW is a load of a word (R205). -/
theorem exec_lw :
    exec (.lw rt rs imm) s = loadFrom s (encode (.lw rt rs imm)) rt (effectiveAddress s rs imm) .word id := rfl

/-- SB is a store of the register's low byte (R208). -/
theorem exec_sb :
    exec (.sb rt rs imm) s = storeTo s (encode (.sb rt rs imm)) (effectiveAddress s rs imm) .byte (s.getReg rt) := rfl

/-- SH is a store of the register's low half (R209). -/
theorem exec_sh :
    exec (.sh rt rs imm) s = storeTo s (encode (.sh rt rs imm)) (effectiveAddress s rs imm) .half (s.getReg rt) := rfl

end

/-! ### Loads -/

/-- A load whose read answers schedules the extended value, and does nothing else (R201). -/
theorem loadFrom_effect {s : State} {ea m : Word} {n : Width} (hm : s.memRead ea n = .ok m) (w : Word) (r : RegIndex)
    (f : Word → Word) : ∃ t, loadFrom s w r ea n f = .next t ∧ Effect s t none (some ⟨r, f m⟩) none := by
  refine ⟨_, ?_, effect_applied s none (some ⟨r, f m⟩) none⟩
  rw [loadFrom_eq, hm]

/-- A load whose read raises ends the run with that condition, and schedules nothing (R201, R302). -/
theorem loadFrom_of_error {s : State} {ea : Word} {n : Width} {c : Condition} (hm : s.memRead ea n = .error c) (w : Word)
    (r : RegIndex) (f : Word → Word) :
    loadFrom s w r ea n f = .next (s.raiseExecute w c) := by
  rw [loadFrom_eq, hm]

/-- A meaning that is a load delivers a value with that value's property, and has the frame of a load (R124, R201). -/
theorem exec_effect_of_loadFrom {i : Instr} {s : State} {w ea m : Word} {r : RegIndex} {n : Width} {f : Word → Word}
    {P : Word → Prop} (he : exec i s = loadFrom s w r ea n f) (hm : s.memRead ea n = .ok m) (hv : P (f m)) :
    ∃ t v, exec i s = .next t ∧ P v ∧ Effect s t none (some ⟨r, v⟩) none := by
  obtain ⟨t, ht, heffect⟩ := loadFrom_effect hm w r f
  exact ⟨t, f m, he.trans ht, hv, heffect⟩

/-- Settles O48: each is the shared load, with its own extension of what was read. -/
theorem loadsScheduleWhatTheyRead : Obligations.LoadsScheduleWhatTheyRead := by
  intro s rt rs imm m
  refine ⟨fun hm => ⟨?_, ?_⟩, fun hm => ?_, fun hm => ?_⟩
  · exact exec_effect_of_loadFrom (exec_lb ..) hm (extendSignedByte_toInt m)
  · exact exec_effect_of_loadFrom (exec_lbu ..) hm (extendByte_toNat m)
  · exact exec_effect_of_loadFrom (exec_lhu ..) hm (extendHalf_toNat m)
  · rw [exec_lw]
    exact loadFrom_effect hm _ rt id

/-- Settles O49: each is the shared load, whose read raised. -/
theorem loadsRaiseWhatTheReadRaises : Obligations.LoadsRaiseWhatTheReadRaises := by
  intro s rt rs imm c
  rw [exec_lb, exec_lbu, exec_lhu, exec_lw]
  exact ⟨fun hm => ⟨loadFrom_of_error hm .., loadFrom_of_error hm ..⟩, fun hm => loadFrom_of_error hm ..,
    fun hm => loadFrom_of_error hm ..⟩

/-! ### Stores -/

/-- With isolation off, a store to RAM inside its bounds writes its bytes there, and does nothing else (R58, R206). -/
theorem storeTo_effect {s : State} {ea : Word} {off : Nat} {n : Width} (hwf : Memory.wf s.ram = true)
    (hiso : s.isolated = false) (hres : resolve s.config.memoryMap ea = some ⟨.ram, off⟩)
    (hb : off + widthBytes n ≤ ramSize) (w v : Word) :
    ∃ t, storeTo s w ea n v = .next t ∧ StoreEffect s t off (widthBytes n) v :=
  ⟨_, storeTo_of_ok hiso (memWrite_ram_inside hres hb v) w, storeEffect_write hwf off (widthBytes n) v⟩

/-- Settles O50: each is the shared store, of its own width. -/
theorem storesWriteRam : Obligations.StoresWriteRam := by
  intro s rt rs imm off hwf hiso hres
  rw [exec_sb, exec_sh, exec_sw]
  exact ⟨fun hb => storeTo_effect (n := .byte) hwf hiso hres hb _ _,
    fun hb => storeTo_effect (n := .half) hwf hiso hres hb _ _,
    fun hb => storeTo_effect (n := .word) hwf hiso hres hb _ _⟩

/-- A store under isolation, or to a segment other than RAM, does nothing at all (R206, R207). -/
theorem storeTo_does_nothing {s : State} {ea : Word}
    (h : s.isolated = true ∨ ∃ p, resolve s.config.memoryMap ea = some p ∧ p.segment ≠ .ram) (w : Word) (n : Width)
    (v : Word) : storeTo s w ea n v = .next s := by
  cases hiso : s.isolated with
  | true => exact storeTo_isolated hiso w ea n v
  | false =>
    rcases h with hset | ⟨p, hres, hseg⟩
    · exact absurd (hset.symm.trans hiso) nofun
    · exact storeTo_of_ok hiso (memWrite_discarded hres hseg n v) w

/-- Settles O51: all three are the shared store. -/
theorem storesThatDoNothing : Obligations.StoresThatDoNothing := by
  intro s rt rs imm h
  rw [exec_sb, exec_sh, exec_sw]
  exact ⟨storeTo_does_nothing h .., storeTo_does_nothing h .., storeTo_does_nothing h ..⟩

/-- Each store instruction is the shared store, of its own number of bytes (R206, R208 to R210). -/
theorem exec_of_store {rt rs : RegIndex} {imm : BitVec 16} {i : Instr} {n : Nat}
    (h : (i = .sb rt rs imm ∧ n = 1) ∨ (i = .sh rt rs imm ∧ n = 2) ∨ (i = .sw rt rs imm ∧ n = 4)) (s : State) :
    ∃ width : Width, n = widthBytes width ∧
      exec i s = storeTo s (encode i) (effectiveAddress s rs imm) width (s.getReg rt) := by
  rcases h with ⟨rfl, rfl⟩ | ⟨rfl, rfl⟩ | ⟨rfl, rfl⟩
  · exact ⟨.byte, rfl, exec_sb ..⟩
  · exact ⟨.half, rfl, exec_sh ..⟩
  · exact ⟨.word, rfl, exec_sw ..⟩

/-- Settles O52: the shared store raises what the write raises, by where the address resolves. -/
theorem storesRaise : Obligations.StoresRaise := by
  intro s rt rs imm i n hiso h
  obtain ⟨width, rfl, he⟩ := exec_of_store h s
  rw [he]
  exact ⟨fun hres => storeTo_of_error hiso (memWrite_unmapped hres width _) _,
    fun _ hres hb => storeTo_of_error hiso (memWrite_ram_outside hres hb _) _⟩

end Machine
end Sys2Proof
end

section
/-! The statements of 44_branch_jump.md: every jump and branch is an applied effect of at most one link and one scheduled target
(R230 to R245), so each statement is what its condition and its target mean, beside that shared effect. -/

namespace Sys2Proof
namespace Machine

/-! ### The branch conditions on one register -/

/-- A word is negative exactly when bit 31 is set (R241). -/
theorem isNegative_eq_getLsbD (v : Word) : isNegative v = v.getLsbD 31 :=
  v.msb_eq_toInt.symm.trans v.msb_eq_getLsbD_last

theorem isNegative_iff {v : Word} : isNegative v = true ↔ v.toInt < 0 := decide_eq_true_iff

theorem isNotPositive_iff {v : Word} : isNotPositive v = true ↔ v.toInt ≤ 0 := decide_eq_true_iff

theorem isPositive_iff {v : Word} : isPositive v = true ↔ 0 < v.toInt := decide_eq_true_iff

theorem isNotNegative_iff {v : Word} : isNotNegative v = true ↔ 0 ≤ v.toInt := decide_eq_true_iff

/-- A word is not negative exactly when bit 31 is clear (R242). -/
theorem isNotNegative_iff_not_getLsbD {v : Word} : isNotNegative v = true ↔ ¬ v.getLsbD 31 = true := by
  rw [isNotNegative_iff, ← isNegative_eq_getLsbD, isNegative_iff, not_lt]

/-! ### The twelve meanings, each as the effect it applies -/

section
variable (s : State) (target : BitVec 26) (rd rs rt sa : RegIndex) (imm : BitVec 16)

/-- J schedules its target (R233). -/
theorem exec_j : exec (.j target) s = .next (s.applied none none (some ⟨jumpTarget s target⟩)) := rfl

/-- JAL links r31 and schedules J's target (R234). -/
theorem exec_jal :
    exec (.jal target) s = .next (s.applied (some (31#5, s.pc + 4#32)) none (some ⟨jumpTarget s target⟩)) := by
  rw [← linkValue_eq]
  rfl

/-- JR schedules the register's value, whatever it is (R235). -/
theorem exec_jr : exec (.jr rs rt rd sa) s = .next (s.applied none none (some ⟨s.getReg rs⟩)) := rfl

/-- JALR links `rd` and schedules the value `rs` held before (R236). -/
theorem exec_jalr :
    exec (.jalr rd rs rt sa) s = .next (s.applied (some (rd, s.pc + 4#32)) none (some ⟨s.getReg rs⟩)) := by
  rw [← linkValue_eq]
  rfl

/-- BEQ is taken when the registers are equal (R237). -/
theorem exec_beq :
    exec (.beq rs rt imm) s =
      .next (s.applied none none (if s.getReg rs == s.getReg rt then some ⟨branchTarget s imm⟩ else none)) :=
  congrArg Host.Outcome.next (branchIf_eq ..)

/-- BNE is taken when the registers differ (R238). -/
theorem exec_bne :
    exec (.bne rs rt imm) s =
      .next (s.applied none none (if s.getReg rs != s.getReg rt then some ⟨branchTarget s imm⟩ else none)) :=
  congrArg Host.Outcome.next (branchIf_eq ..)

/-- BLEZ is taken when the register is at most zero (R239). -/
theorem exec_blez :
    exec (.blez rs imm rt) s =
      .next (s.applied none none (if isNotPositive (s.getReg rs) then some ⟨branchTarget s imm⟩ else none)) :=
  congrArg Host.Outcome.next (branchIf_eq ..)

/-- BGTZ is taken when the register is above zero (R240). -/
theorem exec_bgtz :
    exec (.bgtz rs imm rt) s =
      .next (s.applied none none (if isPositive (s.getReg rs) then some ⟨branchTarget s imm⟩ else none)) :=
  congrArg Host.Outcome.next (branchIf_eq ..)

/-- BLTZ is taken when the register is negative (R241). -/
theorem exec_bltz :
    exec (.bltz rs imm) s =
      .next (s.applied none none (if isNegative (s.getReg rs) then some ⟨branchTarget s imm⟩ else none)) :=
  congrArg Host.Outcome.next (branchIf_eq ..)

/-- BGEZ is taken when the register is not negative (R242). -/
theorem exec_bgez :
    exec (.bgez rs imm) s =
      .next (s.applied none none (if isNotNegative (s.getReg rs) then some ⟨branchTarget s imm⟩ else none)) :=
  congrArg Host.Outcome.next (branchIf_eq ..)

/-- BLTZAL links r31, and is taken when the register was negative before (R243). -/
theorem exec_bltzal :
    exec (.bltzal rs imm) s =
      .next (s.applied (some (31#5, s.pc + 4#32)) none
        (if isNegative (s.getReg rs) then some ⟨branchTarget s imm⟩ else none)) := by
  rw [← linkValue_eq]
  exact congrArg Host.Outcome.next (directWrite_branchIf_eq ..)

/-- BGEZAL links r31, and is taken when the register was not negative before (R244). -/
theorem exec_bgezal :
    exec (.bgezal rs imm) s =
      .next (s.applied (some (31#5, s.pc + 4#32)) none
        (if isNotNegative (s.getReg rs) then some ⟨branchTarget s imm⟩ else none)) := by
  rw [← linkValue_eq]
  exact congrArg Host.Outcome.next (directWrite_branchIf_eq ..)

end

/-! ### The statements -/

section
variable {i : Instr} {s : State} {direct : Option (RegIndex × Word)}

/-- A meaning that applies an effect has that effect and no other (R124). -/
theorem exec_effect_of_applied {load : Option LoadSlot} {branch : Option BranchSlot}
    (he : exec i s = .next (s.applied direct load branch)) : ∃ t, exec i s = .next t ∧ Effect s t direct load branch :=
  ⟨_, he, effect_applied s direct load branch⟩

/-- A branch on a flag schedules its target exactly under the condition the flag decides (R245). -/
theorem exec_effect_of_taken_iff {taken : Bool} {p : Prop} [Decidable p] {a : Word}
    (he : exec i s = .next (s.applied direct none (if taken then some ⟨a⟩ else none))) (h : taken = true ↔ p) :
    ∃ t, exec i s = .next t ∧ Effect s t direct none (if p then some ⟨a⟩ else none) := by
  rw [if_congr h rfl rfl] at he
  exact exec_effect_of_applied he

/-- The same for a flag that decides the opposite of the condition (R245). -/
theorem exec_effect_of_taken_iff_not {taken : Bool} {p : Prop} [Decidable p] {a : Word}
    (he : exec i s = .next (s.applied direct none (if taken then some ⟨a⟩ else none))) (h : taken = true ↔ ¬ p) :
    ∃ t, exec i s = .next t ∧ Effect s t direct none (if p then none else some ⟨a⟩) := by
  rw [← ite_not]
  exact exec_effect_of_taken_iff he h

end

/-- Settles O53: each applies its link and its target, J's and JAL's read as a number. -/
theorem jumpsScheduleTheirTarget : Obligations.JumpsScheduleTheirTarget := fun s target _ _ _ _ =>
  ⟨⟨_, _, exec_j .., jumpTarget_toNat s target, effect_applied ..⟩,
    ⟨_, _, exec_jal .., jumpTarget_toNat s target, effect_applied ..⟩,
    exec_effect_of_applied (exec_jr ..),
    exec_effect_of_applied (exec_jalr ..)⟩

/-- Settles O54: BEQ's flag decides equality, BNE's its negation. -/
theorem equalityBranches : Obligations.EqualityBranches := fun s _ _ imm =>
  ⟨branchTarget s imm, branchTarget_toNat s imm,
    exec_effect_of_taken_iff (exec_beq ..) beq_iff_eq,
    exec_effect_of_taken_iff_not (exec_bne ..) bne_iff_ne⟩

/-- Settles O55: each flag decides its condition on the signed value, for BLTZ and BGEZ read at bit 31. -/
theorem signBranches : Obligations.SignBranches := fun s _ _ imm =>
  ⟨branchTarget s imm, branchTarget_toNat s imm,
    exec_effect_of_taken_iff (exec_blez ..) isNotPositive_iff,
    exec_effect_of_taken_iff (exec_bgtz ..) isPositive_iff,
    exec_effect_of_taken_iff (exec_bltz ..) (by rw [isNegative_eq_getLsbD]),
    exec_effect_of_taken_iff_not (exec_bgez ..) isNotNegative_iff_not_getLsbD⟩

/-- Settles O56: both apply the link beside the branch, on the condition of the register's old value. -/
theorem linkingBranches : Obligations.LinkingBranches := fun s _ imm =>
  ⟨branchTarget s imm, branchTarget_toNat s imm,
    exec_effect_of_taken_iff (exec_bltzal ..) isNegative_iff,
    exec_effect_of_taken_iff (exec_bgezal ..) isNotNegative_iff⟩

end Machine
end Sys2Proof
end

section
/-! The statements of 45_cop0.md: MFC0 schedules the control register's value like a load (R270). -/

namespace Sys2Proof
namespace Machine

/-- MFC0 reads the control register now and schedules its value (R270). -/
theorem exec_mfc0 (s : State) (rt rd : RegIndex) (low : BitVec 11) :
    exec (.mfc0 rt rd low) s = .next (s.applied none (some ⟨rt, s.getControl rd⟩) none) := rfl

/-- Settles O57: MFC0 applies one scheduled load and nothing else. -/
theorem moveFromControl : Obligations.MoveFromControl := fun s rt rd low =>
  exec_effect_of_applied (exec_mfc0 s rt rd low)

end Machine
end Sys2Proof
end

section
/-! The statements of 60_exceptions.md: which conditions each phase of a step raises (R300, R303). -/

namespace Sys2Proof
namespace Machine

/-- A meaning that faults does so as OpcodeNotImplemented of decode, for an Unlisted instruction under `notImplemented`, or in its
execute phase with a condition of ADD and ADDI, of MTC0 or of a memory access (R100, R300). -/
theorem execCase_fault_condition {i : Instr} {s t : State} {r : FaultRecord} (h : ExecCase i s t) (hr : s.halt = .running)
    (hf : t.halt = .faulted r) :
    (r.phase = .decode ∧ r.condition = .opcodeNotImplemented) ∨
      (r.phase = .execute ∧ (r.condition = .arithmeticOverflow ∨
        (∃ j v, r.condition = .controlRegisterWriteRejected j v) ∨ (∃ a, r.condition = .addressNotMapped a) ∨
        ∃ a off n, r.condition = .outOfBounds a off n)) := by
  rcases execCase_halt h hr with ⟨hrun, -⟩ | ⟨c, rfl, hc⟩ | ⟨rfl, -⟩ | ⟨n, -, rfl, -⟩
  · rw [hrun] at hf; cases hf
  · cases hf; exact .inr ⟨rfl, hc⟩
  · cases hf; exact .inl ⟨rfl, rfl⟩
  · cases hf

/-- Settles O11, by the three ways a step can fault: the fetch is a read of a word at the pc, the decoder raises one condition,
and a meaning raises those of its phase. -/
theorem faultConditionsByPhase : Obligations.FaultConditionsByPhase := by
  intro s t r hs ht
  obtain ⟨hr, hc⟩ := step_cases hs
  cases hc with
  | fetchRaised c hf => cases ht; exact memRead_error hf
  | noInstruction w e hf hd => cases ht; rfl
  | executed w i u hf hd he hc =>
    rw [finish_halt] at ht
    rcases execCase_fault_condition hc hr ht with ⟨hp, hcond⟩ | ⟨hp, hcond⟩
    · rw [hp]; exact hcond
    · rw [hp]; exact hcond

end Machine
end Sys2Proof
end

section
/-! The statements of 70_reset_and_hazards.md: construction, the only reset, checks the BIOS image and gives the reset state (R340,
R341); and the words the spec writes out (95_test_vectors.md). -/

namespace Sys2Proof
namespace Machine

/-- Settles O26: construction answers exactly for an image of the BIOS's size, and the condition is none of those a phase of a step
raises. -/
theorem constructionChecksTheImage : Obligations.ConstructionChecksTheImage := by
  refine ⟨fun p => ⟨fun hlen => if_neg hlen, fun hlen => ⟨p.initial, construct_ok.mpr ⟨hlen, rfl⟩⟩⟩, ?_⟩
  intro s t r n hs ht hsize
  have hphase := faultConditionsByPhase s t r hs ht
  rw [hsize] at hphase
  split at hphase
  case h_1 => rcases hphase with h | ⟨_, h⟩ <;> cases h
  case h_2 => cases hphase
  case h_3 => rcases hphase with h | ⟨_, _, h⟩ | ⟨_, h⟩ | ⟨_, _, _, h⟩ <;> cases h

/-- Settles O29: the all-zero image has the BIOS's size, and the state built from it is the reset state. -/
theorem resetIsAConstruction : Obligations.ResetIsAConstruction :=
  construct_ok.mpr ⟨List.length_replicate, initial_resetParams.symm⟩

end Machine

/-- Settles O5, by running the decoder on each word. -/
theorem specExampleWordsDecode : Obligations.SpecExampleWordsDecode := by
  unfold Obligations.SpecExampleWordsDecode
  decide

end Sys2Proof
end
